-- ==== Sys2Proof/Word.lean ====
section
/-! DEFINITION. The word types of the PRAU (rules R6, R10, R21) and the two small
alphabets a command's operand fields are read into (rules R93, R94). -/

namespace Sys2Proof

/-- A bus word, command word or configuration register: 32 bits (R6, R10). -/
abbrev Word := BitVec 32

/-- One stored coefficient: CW = 64 bits, two's complement (R6, R21). -/
abbrev Coeff := BitVec 64

/-- A bus byte address: an offset from PRAU_BASE, 20 bits (R6, R63). -/
abbrev BusAddr := BitVec 20

/-- A polynomial register v0 .. v7 (R21, R93): NPR = 8, every number names one. -/
abbrev VReg := Fin 8

/-- The modulus select operand (R94): CFG_P, CFG_Q, CFG_M or the constant 2. -/
inductive Ms where
  | p
  | q
  | m
  | two
  deriving DecidableEq, Repr

end Sys2Proof
end

