-- ==== Sys2Proof/Config.lean ====
section
/-! DEFINITION. What one implementation fixes: the parameters the spec leaves open
(R6, 92_eei_decisions.md "Named parameters left OPEN") and the constants of the
identification registers (R39). -/

namespace Sys2Proof

/-- The implementation parameters of one PRAU. They are an argument of the model: a State
carries them, no step changes them, and a statement over all states is a statement over
all of them (log entry 1). -/
structure Params where
  /-- NMAX: coefficient slots in each polynomial register, 1 to 4096 (R6). -/
  nmax : Nat
  /-- PRAU_BASE: where the 1 MiB window sits in the host's address map (R63). -/
  prauBase : Nat
  /-- PRAU_IRQ: the number of the irq line at the host's interrupt controller (R208). -/
  prauIrq : Nat
  deriving DecidableEq, Repr

/-- The range R6 gives NMAX; the two platform parameters have no range. -/
abbrev Params.ok (p : Params) : Prop := 1 ≤ p.nmax ∧ p.nmax ≤ 4096

/-- The reference part: NMAX = 1024 (R6). DESIGN CHOICE (log entry 1): PRAU_BASE and
PRAU_IRQ, for which the spec has no reference value, are 0. -/
def Params.reference : Params := { nmax := 1024, prauBase := 0, prauIrq := 0 }

/-- ID, the bytes "PRAU" (R39). -/
def Config.idWord : Word := 0x50524155#32

/-- VERSION (R3, R39). -/
def Config.versionWord : Word := 0x00000001#32

end Sys2Proof
end

