-- ==== Sys2Proof/Syntax.lean ====
section
/-! DEFINITION. The commands of the PRAU as terms: one constructor per row of
spec/opcode_table.json (R4, R96). -/

namespace Sys2Proof

/-- A legal command (R99). vd is the destination, va and vb the sources, ms the modulus
select, imm LDC's constant. -/
inductive Instr where
  /-- CONV vd, va, vb: product in Z[x]/(x^N - 1) (R126). -/
  | conv (vd va vb : VReg)
  /-- ADD vd, va, vb: pointwise sum (R127). -/
  | add (vd va vb : VReg)
  /-- BMOD vd, va, ms: balanced reduction (R128). -/
  | bmod (vd va : VReg) (ms : Ms)
  /-- INVP vd, va, ms: inverse modulo a prime (R154). -/
  | invp (vd va : VReg) (ms : Ms)
  /-- INV2K vd, va, ms: inverse modulo a power of two (R158). -/
  | inv2k (vd va : VReg) (ms : Ms)
  /-- MOV vd, va: register copy (R129). -/
  | mov (vd va : VReg)
  /-- LDC vd, imm: constant polynomial (R130). -/
  | ldc (vd : VReg) (imm : Int)
  deriving DecidableEq, Repr

/-- The one polynomial register a command can write (R22). -/
def Instr.dest : Instr → VReg
  | .conv vd _ _ => vd
  | .add vd _ _ => vd
  | .bmod vd _ _ => vd
  | .invp vd _ _ => vd
  | .inv2k vd _ _ => vd
  | .mov vd _ => vd
  | .ldc vd _ => vd

end Sys2Proof
end

