-- ==== Sys2Proof/Machine/State.lean ====
section
/-! DEFINITION. The state of the PRAU as plain data (R20 to R42), what the outside world
can do to it (R60, R61, R199, R240), the reasons a step can stop, and the state after
reset (R42). -/

namespace Sys2Proof.Machine

/-- One polynomial register: its nonzero coefficients as (slot, coefficient) pairs, slots
strictly rising. A slot that is not listed holds 0, its value at reset (R42; log entry 2). -/
abbrev Poly := List (Nat × Coeff)

/-- The coefficient memory behind the bus window: the register file v0 .. v7 (R21, R65). -/
abbrev Memory := Vector Poly 8

/-- `pending` (R40). -/
inductive Pending where
  /-- Nothing is in flight. -/
  | none
  /-- The clearing sequence after a reset (R241). -/
  | init
  /-- The accepted command word, not yet completed (R200). -/
  | cmd (w : Word)
  deriving DecidableEq, Repr

/-- The errors a command can raise (R204). -/
inductive ErrCode where
  | illegalCmd
  | badN
  | badModulus
  | notInvertible
  | overflow
  | iterCap
  deriving DecidableEq, Repr

/-- One bus transaction (R61): 32 bits wide, no byte enables. -/
inductive Transaction where
  | read (addr : BusAddr)
  | write (addr : BusAddr) (wdata : Word)
  deriving DecidableEq, Repr

/-- The answer to a transaction (R61): a read returns rdata and err, a write err alone. -/
inductive BusAnswer where
  | read (rdata : Word) (err : Bool)
  | write (err : Bool)
  deriving DecidableEq, Repr

/-- One thing that happens next, as the environment schedules it (R199, R240). -/
inductive Input where
  /-- A Host step: one bus transaction. -/
  | host (t : Transaction)
  /-- The Unit's step: the command or INIT in flight completes. -/
  | unit
  /-- The reset port takes this level; false is rst_n = 0. -/
  | rstN (level : Bool)
  deriving DecidableEq, Repr

/-- Reasons the machine stops with a fault: none. Every error of the PRAU is reported in
STATUS or as a bus error, and the machine goes on (R203, R219: "no action leaves the PRAU
stuck"). -/
inductive Fault where
  deriving DecidableEq, Repr

/-- Reasons for a refusal. -/
inductive Refusal where
  /-- Answered by an arm of exec for an instruction without a meaning (safe). No arm
  answers it: every instruction has its meaning. -/
  | notModelled (mnemonic : String)
  deriving DecidableEq, Repr

/-- The machine. The first block is the architectural state of R20; the last block is the
model's own: the parameters and the ports (log entries 1, 3, 4, 5). -/
structure State where
  /-- v[0..7], the polynomial register file (R21). -/
  v : Memory
  /-- CFG_N, the ring degree (R24). -/
  cfgN : Word
  /-- CFG_P, the small prime (R25). -/
  cfgP : Word
  /-- CFG_Q, the power of two (R26). -/
  cfgQ : Word
  /-- CFG_M, the auxiliary modulus (R27). -/
  cfgM : Word
  /-- CMD_LAST, the last accepted command word (R28). -/
  cmdLast : Word
  /-- STATUS.DONE (R31). -/
  done : Bool
  /-- STATUS.ERR (R32). -/
  err : Bool
  /-- STATUS.CMDREJ (R33). -/
  cmdrej : Bool
  /-- STATUS.ACCERR (R35). -/
  accerr : Bool
  /-- STATUS.ERRCODE (R32). -/
  errcode : BitVec 4
  /-- CTRL.IE_DONE (R36). -/
  ieDone : Bool
  /-- CTRL.IE_ERR (R36). -/
  ieErr : Bool
  /-- ITERS, the refinement count of the last INV2K (R37). -/
  iters : Word
  /-- ERRINFO, the command word of the last failed command (R38). -/
  errinfo : Word
  /-- pending, hidden (R40). -/
  pending : Pending
  /-- NMAX and the platform's parameters, which no step changes (R6). -/
  params : Params
  /-- The level at the reset port; false holds the PRAU in reset (R60, R240). -/
  rstN : Bool
  /-- What the environment does next, first to last (R199, R211). -/
  inputs : List Input
  /-- The answer to the latest transaction (R61); none where it has no answer. -/
  bus : Option BusAnswer
  deriving DecidableEq, Repr

/-- The state right after a reset of a part with the given parameters (R42): INIT in
flight, the registers already cleared (R241 lets a model clear them at the reset step). -/
def State.resetWith (params : Params) : State where
  v := Vector.replicate 8 []
  cfgN := 20#32
  cfgP := 7#32
  cfgQ := 0x00100000#32
  cfgM := 0#32
  cmdLast := 0#32
  done := false
  err := false
  cmdrej := false
  accerr := false
  errcode := 0#4
  ieDone := false
  ieErr := false
  iters := 0#32
  errinfo := 0#32
  pending := .init
  params := params
  rstN := true
  inputs := []
  bus := none

/-- The reference part (NMAX = 1024, R6) right after reset (R42). -/
def State.reset : State := State.resetWith Params.reference

end Sys2Proof.Machine
end

