-- ==== Sys2Proof/Machine/Ops.lean ====
section
/-! DEFINITION. The named operations over the coefficient memory and the registers: slot
access, WriteBack (R121), completion (R202), taking an error (R203) and the return from
it (R207), issue (R200, R201), and the reset step (R240). -/

namespace Sys2Proof.Machine

/-- What a step or a meaning answers. -/
abbrev Result := Host.Outcome State Fault Refusal

/-! ### The coefficient memory -/

/-- Slot i of a register: 0 unless listed. -/
def Poly.get : Poly → Nat → Coeff
  | [], _ => 0#64
  | (j, c) :: rest, i => if j = i then c else Poly.get rest i

/-- Store c in slot i, keeping the canonical form: a zero is not listed. -/
def Poly.set : Poly → Nat → Coeff → Poly
  | [], i, c => if c = 0#64 then [] else [(i, c)]
  | (j, d) :: rest, i, c =>
    if i < j then (if c = 0#64 then (j, d) :: rest else (i, c) :: (j, d) :: rest)
    else if i = j then (if c = 0#64 then rest else (i, c) :: rest)
    else (j, d) :: Poly.set rest i c

/-- The register whose slots from k on hold the given integers and whose other slots hold
0; an integer is stored as its 64-bit two's-complement word (R10). -/
def Poly.ofList (k : Nat) : List Int → Poly
  | [] => []
  | c :: cs =>
    if BitVec.ofInt 64 c = 0#64 then Poly.ofList (k + 1) cs
    else (k, BitVec.ofInt 64 c) :: Poly.ofList (k + 1) cs

/-- Canonical from lo on: slots strictly rising, all below hi, no coefficient 0. -/
def Poly.wfFrom (lo hi : Nat) : Poly → Bool
  | [] => true
  | (i, c) :: rest => decide (lo ≤ i) && decide (i < hi) && decide (c ≠ 0#64) && Poly.wfFrom (i + 1) hi rest

/-- Register r of the coefficient memory. -/
def Memory.reg (m : Memory) (r : VReg) : Poly := m[r.val]

/-- Replace the whole of register r. -/
def Memory.setReg (m : Memory) (r : VReg) (p : Poly) : Memory := m.set r.val p

/-- The canonical form of the coefficient memory of a part with nmax slots a register:
every register lists its nonzero slots, all below nmax, in rising order. -/
abbrev Memory.wf (nmax : Nat) (m : Memory) : Prop := ∀ r : VReg, Poly.wfFrom 0 nmax (m.reg r) = true

/-- `v[r][i]` (R12). -/
def State.slot (s : State) (r : VReg) (i : Nat) : Coeff := Poly.get (s.v.reg r) i

/-- Replace the whole of register r. -/
def State.setPoly (s : State) (r : VReg) (p : Poly) : State := { s with v := s.v.setReg r p }

/-- `v[r][i] <- c` (R12). -/
def State.setSlot (s : State) (r : VReg) (i : Nat) (c : Coeff) : State :=
  s.setPoly r (Poly.set (s.v.reg r) i c)

/-- `lo32` (R10). -/
def lo32 (c : Coeff) : Word := c.extractLsb' 0 32

/-- `hi32` (R10). -/
def hi32 (c : Coeff) : Word := c.extractLsb' 32 32

/-- `sext_64({ hi, lo })` as the 64-bit word (R67, R69). -/
def joinHalves (hi lo : Word) : Coeff := hi ++ lo

/-! ### The end of a command -/

/-- `WriteBack(vd, res)` (R121): slots 0 .. N-1 take res, slots N .. NMAX-1 take 0. -/
def writeBack (vd : VReg) (res : List Int) (s : State) : State := s.setPoly vd (Poly.ofList 0 res)

/-- `FitsCW` (R122). -/
def fitsCW (c : Int) : Bool := decide (-9223372036854775808 ≤ c) && decide (c ≤ 9223372036854775807)

/-- The 4-bit code of an error (R204). -/
def codeOf : ErrCode → BitVec 4
  | .illegalCmd => 1#4
  | .badN => 2#4
  | .badModulus => 3#4
  | .notInvertible => 4#4
  | .overflow => 5#4
  | .iterCap => 6#4

/-- The command word in flight (R40). Outside a command it is the word accepted last. -/
def State.commandWord (s : State) : Word :=
  match s.pending with
  | .cmd w => w
  | .init => s.cmdLast
  | .none => s.cmdLast

/-- `ITERS <- n` (R159). -/
def setIters (n : Nat) (s : State) : State := { s with iters := BitVec.ofNat 32 n }

/-- The rest of a successful completion (R202): DONE <- 1, pending <- NONE. -/
def completeOk (s : State) : State := { s with done := true, pending := .none }

/-- TAKING AN ERROR (R203): ERR <- 1, ERRCODE <- code, ERRINFO <- w, pending <- NONE, and
nothing else; DONE stays as issue left it. -/
def raiseError (e : ErrCode) (s : State) : State :=
  { s with err := true, errcode := codeOf e, errinfo := s.commandWord, pending := .none }

/-- THE RETURN FROM AN ERROR (R207): ERR and ERRCODE are cleared together (R32). -/
def clearError (s : State) : State := { s with err := false, errcode := 0#4 }

/-- A command that succeeds with the polynomial res (R121, R202). -/
def commit (vd : VReg) (res : List Int) (s : State) : Result := .next (completeOk (writeBack vd res s))

/-- A command that ends in an error (R203). -/
def fail (e : ErrCode) (s : State) : Result := .next (raiseError e s)

/-- `CheckFit(res)`, then WriteBack (R122). -/
def commitChecked (vd : VReg) (res : List Int) (s : State) : Result :=
  if res.all fitsCW then commit vd res s else fail .overflow s

/-- The legal range of N (R24, R205). -/
abbrev State.legalN (s : State) : Prop := 1 ≤ s.cfgN.toNat ∧ s.cfgN.toNat ≤ s.params.nmax

/-- The N check of the common prologue (R205), then the body with N = CFG_N. -/
def withLegalN (s : State) (body : Nat → Result) : Result :=
  if s.legalN then body s.cfgN.toNat else fail .badN s

/-! ### Issue -/

/-- BUSY: something is in flight (R30). -/
def State.busy (s : State) : Bool :=
  match s.pending with
  | .none => false
  | .init => true
  | .cmd _ => true

/-- Accept w (R200). -/
def acceptCmd (w : Word) (s : State) : State := { s with cmdLast := w, done := false, pending := .cmd w }

/-- Reject a CMD write (R201). -/
def rejectCmd (s : State) : State := { s with cmdrej := true }

/-- A write to CMD: a command issue request (R28, R200, R201). -/
def issueCmd (w : Word) (s : State) : State :=
  if s.busy || s.err then rejectCmd s else acceptCmd w s

/-- An access dropped because BUSY = 1 (R35, R70). -/
def dropAccess (s : State) : State := { s with accerr := true }

/-! ### The configuration and control registers -/

/-- `CFG_N <- x` (R24). -/
def setCfgN (x : Word) (s : State) : State := { s with cfgN := x }

/-- `CFG_P <- x` (R25). -/
def setCfgP (x : Word) (s : State) : State := { s with cfgP := x }

/-- `CFG_Q <- x` (R26). -/
def setCfgQ (x : Word) (s : State) : State := { s with cfgQ := x }

/-- `CFG_M <- x` (R27). -/
def setCfgM (x : Word) (s : State) : State := { s with cfgM := x }

/-- `IE_DONE <- d, IE_ERR <- e` (R36). -/
def setEnables (d e : Bool) (s : State) : State := { s with ieDone := d, ieErr := e }

/-! ### The ports -/

/-- The environment's schedule, with what has happened used up (log entry 3). -/
def setInputs (rest : List Input) (s : State) : State := { s with inputs := rest }

/-- The answer the bus gives; none where it gives none. -/
def setBus (a : Option BusAnswer) (s : State) : State := { s with bus := a }

/-- The level at the reset port. -/
def setPort (level : Bool) (s : State) : State := { s with rstN := level }

/-! ### Reset -/

/-- THE RESET STEP (R240): every piece of state takes its value after reset (R42) and what
was in flight is discarded. The ports and the parameters are not state of the PRAU. -/
def resetStep (s : State) : State :=
  { State.resetWith s.params with rstN := s.rstN, inputs := s.inputs, bus := s.bus }

/-- The end of INIT (R242): pending <- NONE and nothing else. -/
def initDone (s : State) : State := { s with pending := .none }

/-- The reset port takes a level (R240, R42). At rst_n = 0 the PRAU takes its reset values
and is held there with no answer on the bus; at the return to 1 it takes the reset step
(log entry 5). -/
def setRstN (level : Bool) (s : State) : State :=
  if level then (if s.rstN then s else setPort true (resetStep s))
  else setBus none (setPort false (resetStep s))

end Sys2Proof.Machine
end

