-- ==== Sys2Proof/Machine/Flags.lean ====
section
/-! DEFINITION. STATUS, CTRL, CAPS as words, the computed bit PARAMS_VALID, the
write-1-to-clear rule and the interrupt line (R29 to R36, R39, R161, R208). -/

namespace Sys2Proof.Machine

/-- `validate_params` (R161) on the two registers' unsigned values; gcd is R162's. -/
def paramsValid (p q : Word) : Bool := decide (q.toNat > p.toNat) && decide (Nat.gcd p.toNat q.toNat = 1)

/-- STATUS as a bus read returns it (R29, R64). -/
def statusWord (s : State) : Word :=
  0#20 ++ s.errcode ++ 0#2 ++ BitVec.ofBool s.accerr ++ BitVec.ofBool (paramsValid s.cfgP s.cfgQ)
    ++ BitVec.ofBool s.cmdrej ++ BitVec.ofBool s.err ++ BitVec.ofBool s.done ++ BitVec.ofBool s.busy

/-- CTRL as a bus read returns it: SOFT_RESET always reads 0 (R36, R64). -/
def ctrlWord (s : State) : Word := 0#30 ++ BitVec.ofBool s.ieErr ++ BitVec.ofBool s.ieDone

/-- CAPS: `{CW, NPR, NMAX}` (R39). -/
def capsWord (s : State) : Word := 64#8 ++ 8#8 ++ BitVec.ofNat 16 s.params.nmax

/-- A W1C field: a 1 clears it, a 0 leaves it (R29). -/
def w1c (field : Bool) (bit : Bool) : Bool := field && !bit

/-- A write to STATUS (R29, R31 to R33, R35): W1C of DONE, ERR with ERRCODE, CMDREJ and
ACCERR; every other bit is ignored. -/
def writeStatus (wdata : Word) (s : State) : State :=
  let t := { s with
    done := w1c s.done (wdata.getLsbD 1)
    cmdrej := w1c s.cmdrej (wdata.getLsbD 3)
    accerr := w1c s.accerr (wdata.getLsbD 5) }
  if wdata.getLsbD 2 then clearError t else t

/-- The interrupt output: a level, a function of the state (R208). -/
def State.irq (s : State) : Bool := (s.ieDone && s.done) || (s.ieErr && s.err)

/-- The interrupt as the host's controller sees it: the line PRAU_IRQ and its level (R208). -/
def State.irqLine (s : State) : Nat × Bool := (s.params.prauIrq, s.irq)

end Sys2Proof.Machine
end

