-- ==== Sys2Proof/Machine/Bus.lean ====
section
/-! DEFINITION. The Host agent: the address map and one bus transaction (R60 to R71). -/

namespace Sys2Proof.Machine

/-- The registers of the register block (R64). -/
inductive BlockReg where
  | id
  | version
  | caps
  | iters
  | cfgN
  | cfgP
  | cfgQ
  | cfgM
  | cmd
  | status
  | ctrl
  | errinfo
  deriving DecidableEq, Repr

/-- The half of a coefficient an address names (R65). -/
inductive Half where
  | lo
  | hi
  deriving DecidableEq, Repr

/-- What an address decodes to (R63, R65). -/
inductive Target where
  | misaligned
  | reserved
  | block (reg : BlockReg)
  | slot (r : VReg) (i : Nat) (half : Half)
  deriving DecidableEq, Repr

/-- The register at an offset of the register block (R64). -/
def blockReg (offset : Nat) : Option BlockReg :=
  match offset with
  | 0x000 => some .id
  | 0x004 => some .version
  | 0x008 => some .caps
  | 0x00C => some .iters
  | 0x010 => some .cfgN
  | 0x014 => some .cfgP
  | 0x018 => some .cfgQ
  | 0x01C => some .cfgM
  | 0x020 => some .cmd
  | 0x024 => some .status
  | 0x028 => some .ctrl
  | 0x02C => some .errinfo
  | _ => none

/-- The slot and half at an offset into the coefficient window: `r = o[17:15]`,
`i = o[14:3]`, `half = o[2]` (R65). -/
def windowTarget (o : BusAddr) : Target :=
  .slot (o.extractLsb' 15 3).toFin (o.extractLsb' 3 12).toNat (if o.getLsbD 2 then .hi else .lo)

/-- The address decoder: the first row of R63's table that matches. -/
def decodeAddr (addr : BusAddr) : Target :=
  if addr.extractLsb' 0 2 ≠ 0#2 then .misaligned
  else
    match blockReg addr.toNat with
    | some reg => .block reg
    | none =>
      if 0x10000 ≤ addr.toNat ∧ addr.toNat ≤ 0x4FFFF then windowTarget (addr - 0x10000#20)
      else .reserved

/-- The half of a coefficient (R66). -/
def readHalf (half : Half) (c : Coeff) : Word :=
  match half with
  | .lo => lo32 c
  | .hi => hi32 c

/-- The coefficient with one half replaced (R67). -/
def writeHalf (half : Half) (c : Coeff) (wdata : Word) : Coeff :=
  match half with
  | .lo => joinHalves (hi32 c) wdata
  | .hi => joinHalves wdata (lo32 c)

/-- What a read of the register block returns (R64). -/
def blockValue (s : State) : BlockReg → Word
  | .id => Config.idWord
  | .version => Config.versionWord
  | .caps => capsWord s
  | .iters => s.iters
  | .cfgN => s.cfgN
  | .cfgP => s.cfgP
  | .cfgQ => s.cfgQ
  | .cfgM => s.cfgM
  | .cmd => s.cmdLast
  | .status => statusWord s
  | .ctrl => ctrlWord s
  | .errinfo => s.errinfo

/-- A write to CTRL (R36, R64): with bit 31 set it resets and the other bits have no
effect (R240; 90_conflicts.md), else it sets the two enables. -/
def writeCtrl (wdata : Word) (s : State) : State :=
  if wdata.getLsbD 31 then resetStep s
  else setEnables (wdata.getLsbD 0) (wdata.getLsbD 1) s

/-- A write to a CFG register: dropped while busy (R64, R70). -/
def writeCfg (update : State → State) (s : State) : State :=
  if s.busy then dropAccess s else update s

/-- What a write to the register block does (R64). -/
def blockWrite (reg : BlockReg) (wdata : Word) (s : State) : State :=
  match reg with
  | .id => s
  | .version => s
  | .caps => s
  | .iters => s
  | .cfgN => writeCfg (setCfgN wdata) s
  | .cfgP => writeCfg (setCfgP wdata) s
  | .cfgQ => writeCfg (setCfgQ wdata) s
  | .cfgM => writeCfg (setCfgM wdata) s
  | .cmd => issueCmd wdata s
  | .status => writeStatus wdata s
  | .ctrl => writeCtrl wdata s
  | .errinfo => s

/-- The effect and the answer of `Read(addr)` (R61 to R66, R70). -/
def busRead (addr : BusAddr) (s : State) : State × BusAnswer :=
  match decodeAddr addr with
  | .misaligned => (s, .read 0#32 true)
  | .reserved => (s, .read 0#32 true)
  | .block reg => (s, .read (blockValue s reg) false)
  | .slot r i half =>
    if s.params.nmax ≤ i then (s, .read 0#32 true)
    else if s.busy then (dropAccess s, .read 0#32 false)
    else (s, .read (readHalf half (s.slot r i)) false)

/-- The effect and the answer of `Write(addr, wdata)` (R61 to R64, R67, R70). -/
def busWrite (addr : BusAddr) (wdata : Word) (s : State) : State × BusAnswer :=
  match decodeAddr addr with
  | .misaligned => (s, .write true)
  | .reserved => (s, .write true)
  | .block reg => (blockWrite reg wdata s, .write false)
  | .slot r i half =>
    if s.params.nmax ≤ i then (s, .write true)
    else if s.busy then (dropAccess s, .write false)
    else (s.setSlot r i (writeHalf half (s.slot r i) wdata), .write false)

/-- The effect and the answer of one transaction, complete in one step (R61). -/
def transact (t : Transaction) (s : State) : State × BusAnswer :=
  match t with
  | .read addr => busRead addr s
  | .write addr wdata => busWrite addr wdata s

/-- One Host step (R199). While rst_n = 0 no transaction is answered and none has an effect
(R240; log entry 5). -/
def hostStep (t : Transaction) (s : State) : State :=
  if s.rstN then setBus (some (transact t s).2) (transact t s).1 else setBus none s

/-- The port address a host's own address reaches, if it lies in the 1 MiB window at
PRAU_BASE (R63). -/
def platformOffset (p : Params) (a : Nat) : Option BusAddr :=
  if p.prauBase ≤ a ∧ a < p.prauBase + 0x100000 then some (BitVec.ofNat 20 (a - p.prauBase)) else none

end Sys2Proof.Machine
end

