-- ==== Sys2Proof/WellFormed.lean ====
section
/-! DEFINITION. Which terms are commands. Register and modulus operands are well formed
by their types (R93, R94: every value names something), so the one check is the range of
LDC's constant (R95, R101). -/

namespace Sys2Proof

/-- LDC's constant fits 23 bits, two's complement: [-2^22, 2^22 - 1] (R95, R101). -/
def immOk (imm : Int) : Bool := decide (-4194304 ≤ imm) && decide (imm ≤ 4194303)

/-- The terms an assembler accepts and the encoder encodes (R101). -/
def Instr.wellFormed : Instr → Bool
  | .conv _ _ _ => true
  | .add _ _ _ => true
  | .bmod _ _ _ => true
  | .invp _ _ _ => true
  | .inv2k _ _ _ => true
  | .mov _ _ => true
  | .ldc _ imm => immOk imm

end Sys2Proof
end

