-- ==== Sys2Proof/Decode.lean ====
section
/-! DEFINITION. The decoder, total on every 32-bit word (R99), and the encoder (R100). A
command arrives as one bus word with bit 0 the least significant (R90), so there is no
byte order here (R69). -/

namespace Sys2Proof

/-- Why a word is no command. Both reasons are reported alike, as ILLEGAL_CMD (R97, R98). -/
inductive IllegalWord where
  /-- op is 0x00 or 0x08 .. 0x3F (R98). -/
  | undefinedOp
  /-- A must-be-zero field of a legal op is not zero (R97). -/
  | mustBeZero
  deriving DecidableEq, Repr

/-- What a word decodes to: a command term or ILLEGAL (R99). -/
inductive Decoded where
  | term (i : Instr)
  | illegal (why : IllegalWord)
  deriving DecidableEq, Repr

/-- `op = w[31:26]` (R91). -/
def opField (w : Word) : BitVec 6 := w.extractLsb' 26 6

/-- `vd = w[25:23]` (R93). -/
def vdField (w : Word) : VReg := (w.extractLsb' 23 3).toFin

/-- `va = w[22:20]` (R93). -/
def vaField (w : Word) : VReg := (w.extractLsb' 20 3).toFin

/-- `vb = w[19:17]` (R93). -/
def vbField (w : Word) : VReg := (w.extractLsb' 17 3).toFin

/-- `ms = w[16:15]` (R94). -/
def msField (w : Word) : BitVec 2 := w.extractLsb' 15 2

/-- `zero = w[14:0]`, which must be 0 in format R (R91). -/
def zeroField (w : Word) : BitVec 15 := w.extractLsb' 0 15

/-- `imm = sext_23(w[22:0])` (R95). -/
def immField (w : Word) : Int := (w.extractLsb' 0 23).toInt

/-- The table of R94. -/
def msOfBits (b : BitVec 2) : Ms :=
  if b = 0#2 then .p else if b = 1#2 then .q else if b = 2#2 then .m else .two

/-- The table of R94, read the other way. -/
def bitsOfMs : Ms → BitVec 2
  | .p => 0#2
  | .q => 1#2
  | .m => 2#2
  | .two => 3#2

/-- The term if the must-be-zero fields are zero, else ILLEGAL (R97). -/
def termIfZero (zeros : Bool) (i : Instr) : Decoded :=
  if zeros then .term i else .illegal .mustBeZero

/-- `Decode` of R99. -/
def decode (w : Word) : Decoded :=
  match (opField w).toNat with
  | 0x01 => termIfZero (msField w == 0#2 && zeroField w == 0#15) (.conv (vdField w) (vaField w) (vbField w))
  | 0x02 => termIfZero (msField w == 0#2 && zeroField w == 0#15) (.add (vdField w) (vaField w) (vbField w))
  | 0x03 => termIfZero (vbField w == 0 && zeroField w == 0#15) (.bmod (vdField w) (vaField w) (msOfBits (msField w)))
  | 0x04 => termIfZero (vbField w == 0 && zeroField w == 0#15) (.invp (vdField w) (vaField w) (msOfBits (msField w)))
  | 0x05 => termIfZero (vbField w == 0 && zeroField w == 0#15) (.inv2k (vdField w) (vaField w) (msOfBits (msField w)))
  | 0x06 => termIfZero (vbField w == 0 && msField w == 0#2 && zeroField w == 0#15) (.mov (vdField w) (vaField w))
  | 0x07 => .term (.ldc (vdField w) (immField w))
  | _ => .illegal .undefinedOp

/-- A register number at its place in the word (R100: `d<<23`, `a<<20`, `b<<17`). -/
def regAt (r : VReg) (lo : Nat) : Word := BitVec.ofNat 32 r.val <<< lo

/-- A modulus select at its place in the word (R100: `s<<15`). -/
def msAt (ms : Ms) : Word := (bitsOfMs ms).setWidth 32 <<< 15

/-- `Enc` of R100. -/
def encode : Instr → Word
  | .conv d a b => 0x04000000#32 ||| regAt d 23 ||| regAt a 20 ||| regAt b 17
  | .add d a b => 0x08000000#32 ||| regAt d 23 ||| regAt a 20 ||| regAt b 17
  | .bmod d a ms => 0x0C000000#32 ||| regAt d 23 ||| regAt a 20 ||| msAt ms
  | .invp d a ms => 0x10000000#32 ||| regAt d 23 ||| regAt a 20 ||| msAt ms
  | .inv2k d a ms => 0x14000000#32 ||| regAt d 23 ||| regAt a 20 ||| msAt ms
  | .mov d a => 0x18000000#32 ||| regAt d 23 ||| regAt a 20
  | .ldc d imm => 0x1C000000#32 ||| regAt d 23 ||| (BitVec.ofInt 23 imm).setWidth 32

/-- The instruction read from a word numbered as spec/opcode_table.json numbers its bits;
the bits above nbits are 0. Every row has 32 bits (R90). -/
def decodeTableWord (nbits w : Nat) : Option Instr :=
  match decode (BitVec.ofNat 32 (w % 2 ^ nbits)) with
  | .term i => some i
  | .illegal _ => none

end Sys2Proof
end

