-- ==== Sys2Proof/Machine/Operands.lean ====
section
/-! DEFINITION. Every operand form of the commands: source registers (R120), the modulus
select (R94), the constant polynomials (R12, R95). A polynomial value is the list of its N
integer coefficients, coefficient of x^0 first (R12). -/

namespace Sys2Proof.Machine

/-- `Src(r)`: the integers in slots 0 .. N-1 (R120). -/
def src (s : State) (n : Nat) (r : VReg) : List Int := (List.range n).map fun i => (s.slot r i).toInt

/-- `ModSel(ms)`, an unsigned integer below 2^32 (R94). -/
def modSel (s : State) : Ms → Nat
  | .p => s.cfgP.toNat
  | .q => s.cfgQ.toNat
  | .m => s.cfgM.toNat
  | .two => 2

/-- `CONST(c)`, of length N (R12). -/
def constPoly (n : Nat) (c : Int) : List Int := (List.range n).map fun k => if k = 0 then c else 0

/-- `ONE` (R12). -/
def onePoly (n : Nat) : List Int := constPoly n 1

end Sys2Proof.Machine
end

