-- ==== Sys2Proof/Machine/DataMovement.lean ====
section
/-! DEFINITION. MOV and LDC (R129, R130). -/

namespace Sys2Proof.Machine

/-- MOV (R129): slots 0 .. N-1 are copied, slots N .. NMAX-1 of vd become 0. -/
def execMov (vd va : VReg) (s : State) : Result :=
  withLegalN s fun n => commit vd (src s n va) s

/-- LDC (R130): slot 0 takes the constant, every other slot 0. The N check applies. -/
def execLdc (vd : VReg) (imm : Int) (s : State) : Result :=
  withLegalN s fun n => commit vd (constPoly n imm) s

end Sys2Proof.Machine
end

