-- ==== Sys2Proof/Machine/RingArithmetic.lean ====
section
/-! DEFINITION. CONV, ADD and BMOD (R126 to R128) and the integer arithmetic they share:
the balanced residue (R123) and the cyclic convolution (R125). All of it is exact. -/

namespace Sys2Proof.Machine

/-- `balmod(c, m)` for m >= 1 (R123). On a positive divisor `%` is R11's mod. -/
def balmod (c : Int) (m : Nat) : Int := (c + (m / 2 : Nat)) % (m : Int) - (m / 2 : Nat)

/-- The sum of the products of two lists, place by place. -/
def dot : List Int → List Int → Int
  | a :: as, b :: bs => a * b + dot as bs
  | _, _ => 0

/-- `b_k, b_(k-1), .., b_0, b_(n-1), .., b_(k+1)`: the coefficients that meet
`a_0, a_1, ..` in place k of the cyclic product. rb is b reversed. -/
def convRow (n k : Nat) (rb : List Int) : List Int := rb.drop (n - 1 - k) ++ rb.take (n - 1 - k)

/-- `cyc_conv(a, b)` for polynomials of length n (R125): place k sums `a_i * b_j` over
`(i + j) mod n = k`. -/
def cycConv (n : Nat) (a b : List Int) : List Int :=
  (List.range n).map fun k => dot a (convRow n k b.reverse)

/-- CONV (R126). -/
def execConv (vd va vb : VReg) (s : State) : Result :=
  withLegalN s fun n => commitChecked vd (cycConv n (src s n va) (src s n vb)) s

/-- ADD (R127). -/
def execAdd (vd va vb : VReg) (s : State) : Result :=
  withLegalN s fun n => commitChecked vd (List.zipWith (· + ·) (src s n va) (src s n vb)) s

/-- BMOD (R128): the modulus check comes before the source is read (R205). -/
def execBmod (vd va : VReg) (ms : Ms) (s : State) : Result :=
  withLegalN s fun n =>
    if modSel s ms = 0 then fail .badModulus s
    else commit vd ((src s n va).map fun c => balmod c (modSel s ms)) s

end Sys2Proof.Machine
end

