-- ==== Sys2Proof/Machine/FieldPoly.lean ====
section
/-! DEFINITION. Polynomials over GF(p) (R150) and the inverse modulo a prime (R153). Such
a polynomial is the list of its coefficients, each below p, low degree first, with no
trailing zero: its degree is its length less one, and the zero polynomial is []. -/

namespace Sys2Proof.Machine

/-- Is there a divisor of m among the 2^k numbers from lo on that is at least 2 and at most
the square root of m? Halving the range keeps the recursion shallow. -/
def hasDivisorIn (m : Nat) : Nat → Nat → Bool
  | 0, lo => m % lo == 0 && decide (2 ≤ lo) && decide (lo * lo ≤ m)
  | k + 1, lo =>
    if m < lo * lo then false
    else hasDivisorIn m k lo || hasDivisorIn m k (lo + 2 ^ k)

/-- `IsPrime(m)` for m below 2^32 (R151): a composite m has a divisor below 2^16. -/
def isPrime (m : Nat) : Bool := decide (2 ≤ m) && !hasDivisorIn m 16 0

/-- b to the e modulo p, for e below 2^fuel. -/
def powMod (p : Nat) : Nat → Nat → Nat → Nat
  | 0, _, _ => 1 % p
  | fuel + 1, b, e =>
    if e % 2 = 1 then b * powMod p fuel (b * b % p) (e / 2) % p
    else powMod p fuel (b * b % p) (e / 2)

/-- `c^-1` in GF(p) (R150): c to the p - 2, the one d with c * d mod p = 1. -/
def fieldInv (p c : Nat) : Nat := powMod p 32 c (p - 2)

/-- Drop the trailing zeros. -/
def trim : List Nat → List Nat
  | [] => []
  | a :: as =>
    match trim as with
    | [] => if a = 0 then [] else [a]
    | b :: bs => a :: b :: bs

/-- a - b over GF(p). -/
def polySub (p : Nat) : List Nat → List Nat → List Nat
  | [], bs => bs.map fun b => (p - b % p) % p
  | as, [] => as
  | a :: as, b :: bs => (a + (p - b % p)) % p :: polySub p as bs

/-- a + b over GF(p). -/
def polyAdd (p : Nat) : List Nat → List Nat → List Nat
  | [], bs => bs
  | as, [] => as
  | a :: as, b :: bs => (a + b) % p :: polyAdd p as bs

/-- a * b over GF(p). -/
def polyMul (p : Nat) : List Nat → List Nat → List Nat
  | [], _ => []
  | a :: as, bs => polyAdd p (bs.map fun b => a * b % p) (0 :: polyMul p as bs)

/-- Subtract c * b from the front of r, place by place. -/
def subScaled (p c : Nat) : List Nat → List Nat → List Nat
  | b :: bs, r :: rs => (r + (p - c * b % p)) % p :: subScaled p c bs rs
  | _, rs => rs

/-- Long division, high degree first: steps quotient coefficients of r by a divisor whose
leading coefficient has the inverse inv and whose other coefficients are bs. Answers the
quotient and the remainder, high degree first. -/
def longDiv (p inv : Nat) (bs : List Nat) : Nat → List Nat → List Nat × List Nat
  | 0, rs => ([], rs)
  | _ + 1, [] => ([], [])
  | steps + 1, r :: rs =>
    let c := r * inv % p
    let rest := longDiv p inv bs steps (subScaled p c bs rs)
    (c :: rest.1, rest.2)

/-- `PolyDivMod_p(A, B)` for B not zero (R150): long division that multiplies by the
inverse of the leading coefficient of B. -/
def polyDivMod (p : Nat) (a b : List Nat) : List Nat × List Nat :=
  match b.reverse with
  | [] => ([], a)
  | lead :: bs =>
    let qr := longDiv p (fieldInv p lead) bs (a.length + 1 - b.length) a.reverse
    (trim qr.1.reverse, trim qr.2.reverse)

/-- The loop of R153: `(r0, t0)` when r1 = 0. The degree of r1 falls at every turn, so
fuel N + 1 is enough (R249). -/
def euclidLoop (p : Nat) : Nat → List Nat → List Nat → List Nat → List Nat → List Nat × List Nat
  | 0, r0, _, t0, _ => (r0, t0)
  | fuel + 1, r0, r1, t0, t1 =>
    if r1 = [] then (r0, t0)
    else
      let qr := polyDivMod p r0 r1
      euclidLoop p fuel r1 qr.2 t1 (trim (polySub p t0 (polyMul p qr.1 t1)))

/-- `x^N - 1` over GF(p): `(p-1) + 0*x + .. + 1*x^N` (R153). -/
def xPowNSubOne (p n : Nat) : List Nat := (p - 1) :: (List.replicate (n - 1) 0 ++ [1])

/-- Fold `x^e` onto `x^(e mod n)` (R153). -/
def foldCyclic (p n : Nat) (g : List Nat) : List Nat :=
  (List.range n).map fun k => ((g.zipIdx.filter fun e => e.2 % n == k).map Prod.fst).sum % p

/-- The reduction of an integer polynomial mod p (R150). -/
def reduceMod (p : Nat) (a : List Int) : List Nat := a.map fun c => (c % (p : Int)).toNat

/-- `InvModPrime(a, p)`: the balanced inverse of a modulo x^n - 1 and the prime p, or none
(R153). -/
def invModPrime (n p : Nat) (a : List Int) : Option (List Int) :=
  let f := trim (reduceMod p a)
  if f = [] then none
  else
    let rt := euclidLoop p (n + 1) (xPowNSubOne p n) f [] [1]
    match rt.1 with
    | [r] =>
      let g := rt.2.map fun t => fieldInv p r * t % p
      some ((foldCyclic p n g).map fun (h : Nat) => balmod (h : Int) p)
    | _ => none

end Sys2Proof.Machine
end

