-- ==== Sys2Proof/Machine/Inversion.lean ====
section
/-! DEFINITION. INVP (R154) and INV2K (R158), with the modulus checks (R151, R155), the
iteration cap (R156) and the Newton refinement (R157). -/

namespace Sys2Proof.Machine

/-- INVP (R154). -/
def execInvp (vd va : VReg) (ms : Ms) (s : State) : Result :=
  withLegalN s fun n =>
    if isPrime (modSel s ms) then
      match invModPrime n (modSel s ms) (src s n va) with
      | none => fail .notInvertible s
      | some h => commit vd h s
    else fail .badModulus s

/-- `IsPow2(m)` with its witness: the k with m = 2^k and 1 <= k <= 31 (R155). -/
def pow2Exponent (m : Nat) : Option Nat := (List.range' 1 31).find? fun k => m == 2 ^ k

/-- `ceil(log2(k))` for 1 <= k <= 32: the least j with k <= 2^j. -/
def ceilLog2 (k : Nat) : Nat := ((List.range 6).find? fun j => decide (k ≤ 2 ^ j)).getD 5

/-- `CAP(2^k)` (R156). -/
def iterationCap (k : Nat) : Nat := 2 * ceilLog2 k + 4

/-- Balanced reduction of a whole polynomial (R14, R123). -/
def balmodPoly (m : Nat) (a : List Int) : List Int := a.map fun c => balmod c m

/-- `Refine(h, a, m)` (R157), every intermediate exact. -/
def refine (n m : Nat) (a h : List Int) : List Int :=
  balmodPoly m (cycConv n h (List.zipWith (· - ·) (constPoly n 2) (cycConv n h a)))

/-- The termination test of R158: `balmod(cyc_conv(h, a), m) == ONE`. -/
def isInverseMod (n m : Nat) (a h : List Int) : Bool := decide (balmodPoly m (cycConv n h a) = onePoly n)

/-- How the refinement loop ends. -/
inductive NewtonEnd where
  /-- The test passed on h after it refinements. -/
  | converged (h : List Int) (it : Nat)
  /-- The cap was reached after it refinements. -/
  | capped (it : Nat)
  deriving DecidableEq, Repr

/-- The loop of R158, the test before each refinement; left refinements may still be made. -/
def newtonLoop (n m : Nat) (a : List Int) : Nat → Nat → List Int → NewtonEnd
  | left, it, h =>
    if isInverseMod n m a h then .converged h it
    else
      match left with
      | 0 => .capped it
      | left + 1 => newtonLoop n m a left (it + 1) (refine n m a h)

/-- INV2K (R158). ITERS is written whenever the modulus check passed (R159). -/
def execInv2k (vd va : VReg) (ms : Ms) (s : State) : Result :=
  withLegalN s fun n =>
    match pow2Exponent (modSel s ms) with
    | none => fail .badModulus s
    | some k =>
      match invModPrime n 2 (src s n va) with
      | none => fail .notInvertible (setIters 0 s)
      | some h =>
        match newtonLoop n (modSel s ms) (src s n va) (iterationCap k) 0 h with
        | .converged h it => commit vd h (setIters it s)
        | .capped it => fail .iterCap (setIters it s)

end Sys2Proof.Machine
end

