-- ==== Sys2Proof/Machine/Dispatch.lean ====
section
/-! DEFINITION. exec: the completion of a decoded command (R202, R203, R205), one direct
call of a meaning for each row of the opcode table. -/

namespace Sys2Proof.Machine

def exec (i : Instr) (s : State) : Host.Outcome State Fault Refusal :=
  match i with
  | .conv vd va vb => Sys2Proof.Machine.execConv vd va vb s
  | .add vd va vb => Sys2Proof.Machine.execAdd vd va vb s
  | .bmod vd va ms => Sys2Proof.Machine.execBmod vd va ms s
  | .invp vd va ms => Sys2Proof.Machine.execInvp vd va ms s
  | .inv2k vd va ms => Sys2Proof.Machine.execInv2k vd va ms s
  | .mov vd va => Sys2Proof.Machine.execMov vd va s
  | .ldc vd imm => Sys2Proof.Machine.execLdc vd imm s

end Sys2Proof.Machine
end

