-- ==== Sys2Proof/Machine/Completion.lean ====
section
/-! DEFINITION. The Unit agent (R199): the completion of the command or of INIT in flight. -/

namespace Sys2Proof.Machine

/-- `Execute(w)` and its completion (R202, R203, R205): decode the word latched at issue,
then run the command, or end in ILLEGAL_CMD (R97, R98). -/
def completeCommand (w : Word) (s : State) : Result :=
  match decode w with
  | .term i => exec i s
  | .illegal _ => fail .illegalCmd s

/-- One Unit step (R199), enabled while something is in flight. Idle, or held in reset, the
machine keeps its state (R218, R240). -/
def unitStep (s : State) : Result :=
  if s.rstN then
    match s.pending with
    | .none => .next s
    | .init => .next (initDone s)
    | .cmd w => completeCommand w s
  else .next s

end Sys2Proof.Machine
end

