-- ==== Sys2Proof/Machine/Step.lean ====
section
/-! DEFINITION. One step of the machine: the next thing the environment schedules, a Host
step, the Unit's step or a change of rst_n (R199, R211, R240); the Unit's step where the
schedule is empty (log entry 3). -/

namespace Sys2Proof.Machine

/-- The input is used up before it takes effect. -/
def step (s : State) : Host.Outcome State Fault Refusal :=
  match s.inputs with
  | [] => unitStep s
  | .host t :: rest => .next (hostStep t (setInputs rest s))
  | .unit :: rest => unitStep (setInputs rest s)
  | .rstN level :: rest => .next (setRstN level (setInputs rest s))

/-- s with the command word w just accepted (R200: it is latched in pending and CMD_LAST,
DONE is 0, and ERR was 0) and the Unit's step next, so that the next step completes exactly
it. It stands for the host's CMD write (log entry 6). -/
def State.withFetchWord (s : State) (nbits w : Nat) : State :=
  setInputs (.unit :: s.inputs) (setPort true (acceptCmd (BitVec.ofNat 32 (w % 2 ^ nbits)) (clearError s)))

end Sys2Proof.Machine
end

