-- ==== Sys2Proof/Machine/Assembly.lean ====
section
/-! DEFINITION. The assembler's view of the commands (R101, R102): one line of text, as its
characters, to the commands it stands for. It has no part in a step. -/

namespace Sys2Proof.Machine

/-- The pseudo-instructions (R102). -/
inductive Pseudo where
  | clr (vd : VReg)
  | ldone (vd : VReg)
  | modp (vd va : VReg)
  | modq (vd va : VReg)
  | mod2 (vd va : VReg)
  | scale (vd va vt : VReg) (imm : Int)
  deriving DecidableEq, Repr

/-- The commands a pseudo-instruction expands to, each a CMD write of its own (R102). -/
def expand : Pseudo → List Instr
  | .clr vd => [.ldc vd 0]
  | .ldone vd => [.ldc vd 1]
  | .modp vd va => [.bmod vd va .p]
  | .modq vd va => [.bmod vd va .q]
  | .mod2 vd va => [.bmod vd va .two]
  | .scale vd va vt imm => [.ldc vt imm, .conv vd va vt]

/-- A line without its comment (R101). -/
def dropComment : List Char → List Char
  | [] => []
  | c :: cs => if c = ';' then [] else c :: dropComment cs

/-- The words of a line: runs of characters other than spaces and commas, and each comma as a
word of its own. cur is the word being read, last character first. -/
def wordsOf : List Char → List Char → List (List Char)
  | cur, [] => if cur = [] then [] else [cur.reverse]
  | cur, c :: cs =>
    let done := if cur = [] then [] else [cur.reverse]
    if c = ' ' then done ++ wordsOf [] cs
    else if c = ',' then done ++ [','] :: wordsOf [] cs
    else wordsOf (c :: cur) cs

/-- The operands of a line: words with one comma between each two. -/
def operandsOf : List (List Char) → Option (List (List Char))
  | [] => some []
  | [w] => if w = [','] then none else some [w]
  | w :: c :: rest =>
    if w = [','] ∨ c ≠ [','] ∨ rest = [] then none
    else (operandsOf rest).map fun ws => w :: ws

/-- The value of a digit in a base up to 16. DESIGN CHOICE (log entry 10): the digit separator `_`
that 00_scope.md R9 allows in the spec's own hexadecimal literals is no digit here, so a literal
that holds one is rejected; R101 does not say whether an assembler takes it. -/
def digitVal (base : Nat) (c : Char) : Option Nat :=
  let d :=
    if '0' ≤ c ∧ c ≤ '9' then c.toNat - '0'.toNat
    else if 'a' ≤ c ∧ c ≤ 'f' then c.toNat - 'a'.toNat + 10
    else if 'A' ≤ c ∧ c ≤ 'F' then c.toNat - 'A'.toNat + 10
    else 16
  if d < base then some d else none

/-- The number the digits stand for, acc being the value read so far. -/
def digitsVal (base : Nat) : Nat → List Char → Option Nat
  | acc, [] => some acc
  | acc, c :: cs =>
    match digitVal base c with
    | none => none
    | some d => digitsVal base (base * acc + d) cs

/-- An unsigned literal: decimal, or hexadecimal after 0x (R101). -/
def natLit : List Char → Option Nat
  | [] => none
  | ['0', 'x'] => none
  | '0' :: 'x' :: cs => digitsVal 16 0 cs
  | c :: cs => digitsVal 10 0 (c :: cs)

/-- A signed literal (R101). -/
def intLit : List Char → Option Int
  | '-' :: cs => (natLit cs).map fun n => -(n : Int)
  | cs => (natLit cs).map fun n => (n : Int)

/-- `v0` .. `v7` (R101). -/
def regLit : List Char → Option VReg
  | ['v', d] =>
    match digitVal 10 d with
    | some n => if h : n < 8 then some ⟨n, h⟩ else none
    | none => none
  | _ => none

/-- `P`, `Q`, `M` or `2` (R94, R101). -/
def msLit : List Char → Option Ms
  | ['P'] => some .p
  | ['Q'] => some .q
  | ['M'] => some .m
  | ['2'] => some .two
  | _ => none

/-- LDC's constant; one outside [-2^22, 2^22 - 1] is rejected, never truncated (R101). -/
def immLit (cs : List Char) : Option Int :=
  match intLit cs with
  | some z => if immOk z then some z else none
  | none => none

/-- Three registers. -/
def regs3 (f : VReg → VReg → VReg → List Instr) : List (List Char) → Option (List Instr)
  | [d, a, b] => do return f (← regLit d) (← regLit a) (← regLit b)
  | _ => none

/-- Two registers. -/
def regs2 (f : VReg → VReg → List Instr) : List (List Char) → Option (List Instr)
  | [d, a] => do return f (← regLit d) (← regLit a)
  | _ => none

/-- One register. -/
def regs1 (f : VReg → List Instr) : List (List Char) → Option (List Instr)
  | [d] => do return f (← regLit d)
  | _ => none

/-- Two registers and a modulus. -/
def regs2Ms (f : VReg → VReg → Ms → List Instr) : List (List Char) → Option (List Instr)
  | [d, a, m] => do return f (← regLit d) (← regLit a) (← msLit m)
  | _ => none

/-- LDC's operands. -/
def ldcOperands : List (List Char) → Option (List Instr)
  | [d, i] => do return [.ldc (← regLit d) (← immLit i)]
  | _ => none

/-- SCALE's operands: vt must differ from va (R102). -/
def scaleOperands : List (List Char) → Option (List Instr)
  | [d, a, t, i] => do
    let va ← regLit a
    let vt ← regLit t
    let vd ← regLit d
    let imm ← immLit i
    if vt = va then none else some (expand (.scale vd va vt imm))
  | _ => none

/-- The commands of a mnemonic with its operands (R101, R102). -/
def assembleWords (mnemonic : List Char) (ops : List (List Char)) : Option (List Instr) :=
  if mnemonic = ['C', 'O', 'N', 'V'] then regs3 (fun d a b => [.conv d a b]) ops
  else if mnemonic = ['A', 'D', 'D'] then regs3 (fun d a b => [.add d a b]) ops
  else if mnemonic = ['B', 'M', 'O', 'D'] then regs2Ms (fun d a ms => [.bmod d a ms]) ops
  else if mnemonic = ['I', 'N', 'V', 'P'] then regs2Ms (fun d a ms => [.invp d a ms]) ops
  else if mnemonic = ['I', 'N', 'V', '2', 'K'] then regs2Ms (fun d a ms => [.inv2k d a ms]) ops
  else if mnemonic = ['M', 'O', 'V'] then regs2 (fun d a => [.mov d a]) ops
  else if mnemonic = ['L', 'D', 'C'] then ldcOperands ops
  else if mnemonic = ['C', 'L', 'R'] then regs1 (fun d => expand (.clr d)) ops
  else if mnemonic = ['L', 'D', 'O', 'N', 'E'] then regs1 (fun d => expand (.ldone d)) ops
  else if mnemonic = ['M', 'O', 'D', 'P'] then regs2 (fun d a => expand (.modp d a)) ops
  else if mnemonic = ['M', 'O', 'D', 'Q'] then regs2 (fun d a => expand (.modq d a)) ops
  else if mnemonic = ['M', 'O', 'D', '2'] then regs2 (fun d a => expand (.mod2 d a)) ops
  else if mnemonic = ['S', 'C', 'A', 'L', 'E'] then scaleOperands ops
  else none

/-- One line of assembly: none where it is no line of R101 or R102; a blank line or a
comment stands for no command. -/
def assembleLine (line : List Char) : Option (List Instr) :=
  match wordsOf [] (dropComment line) with
  | [] => some []
  | mnemonic :: rest =>
    match operandsOf rest with
    | none => none
    | some ops => assembleWords mnemonic ops

end Sys2Proof.Machine
end

