-- ==== Sys2Proof/Safety.lean ====
section
/-! DEFINITION. What counts as a sound state and a safe run, and the terms the claims are
written in: the ring product as the spec's own double sum, a balanced residue, the memory
after a WriteBack, and whose turn a step is. -/

namespace Sys2Proof.Machine

open Finset

/-! ### Sound states and safe runs -/

/-- What holds of every state of a run from reset:
NMAX is in its range (R6); the coefficient memory is in canonical form; ERRCODE is 0 while
ERR = 0 and one of 1 .. 6 while ERR = 1 (R32, R204); DONE and ERR are never 1 together
(R209); while a command is in flight CMD_LAST is its word and DONE and ERR are 0 (R200,
R203); during INIT every register is clear and DONE and ERR are 0 (R241, R242); while
rst_n = 0 the PRAU is at INIT (R240). -/
structure State.Inv (s : State) : Prop where
  nmax_range : s.params.ok
  mem_wf : Memory.wf s.params.nmax s.v
  errcode_idle : s.err = false → s.errcode = 0#4
  errcode_range : s.err = true → 1 ≤ s.errcode.toNat ∧ s.errcode.toNat ≤ 6
  done_err : ¬ (s.done = true ∧ s.err = true)
  cmd_flight : ∀ w, s.pending = .cmd w → s.cmdLast = w ∧ s.done = false ∧ s.err = false
  init_flight : s.pending = .init → s.v = Vector.replicate 8 [] ∧ s.done = false ∧ s.err = false
  held_init : s.rstN = false → s.pending = .init

/-- A run of k steps meets no fault and no refusal. -/
def SafeRun (k : Nat) (s : State) : Prop := ∃ t, Host.Core.run Sys2Proof.core k s = .next t

/-! ### Polynomials in the terms of the spec -/

/-- `v[r][i]` as the integer it stands for (R10). -/
def State.coef (s : State) (r : VReg) (i : Nat) : Int := (s.slot r i).toInt

/-- N = CFG_N (R120). -/
def State.degree (s : State) : Nat := s.cfgN.toNat

/-- `cyc_conv(a, b)_k` exactly as R125 writes it. -/
def ringProduct (n : Nat) (a b : Nat → Int) (k : Nat) : Int :=
  ∑ i ∈ range n, ∑ j ∈ range n, if (i + j) % n = k then a i * b j else 0

/-- The coefficients of ONE (R12). -/
def oneCoef (k : Nat) : Int := if k = 0 then 1 else 0

/-- `FitsCW(c)` (R122). -/
def Fits (c : Int) : Prop := -2 ^ 63 ≤ c ∧ c ≤ 2 ^ 63 - 1

/-- c lies in the balanced interval of m: [-(m-1)/2, (m-1)/2] for odd m, [-m/2, m/2 - 1]
for even m (R123). -/
def Balanced (m : Nat) (c : Int) : Prop := -(m : Int) ≤ 2 * c ∧ 2 * c < m

/-- h is an inverse of a modulo x^n - 1 and m (R152). -/
def InverseMod (n m : Nat) (a h : Nat → Int) : Prop := ∀ k < n, ringProduct n a h k ≡ oneCoef k [ZMOD m]

/-- new is old after `WriteBack(vd, res)` with N = n (R121), and no other register changed. -/
structure WroteBack (old new : Memory) (vd : VReg) (n : Nat) (res : Nat → Int) : Prop where
  lower : ∀ k < n, (Poly.get (new.reg vd) k).toInt = res k
  upper : ∀ k, n ≤ k → Poly.get (new.reg vd) k = 0#64
  others : ∀ r, r ≠ vd → new.reg r = old.reg r

/-- The selected modulus is illegal for the command: BMOD m = 0; INVP m not prime; INV2K m
not 2^k with 1 <= k <= 31 (R204, code 3). The other commands select none. -/
def illegalModulus (s : State) : Instr → Prop
  | .conv _ _ _ => False
  | .add _ _ _ => False
  | .bmod _ _ ms => modSel s ms = 0
  | .invp _ _ ms => ¬ (2 ≤ modSel s ms ∧ ∀ d, 2 ≤ d → d < modSel s ms → ¬ d ∣ modSel s ms)
  | .inv2k _ _ ms => ¬ ∃ k, 1 ≤ k ∧ k ≤ 31 ∧ modSel s ms = 2 ^ k
  | .mov _ _ => False
  | .ldc _ _ => False

/-- The command is an INV2K, the only one that writes ITERS (R37). -/
def isInv2k : Instr → Prop
  | .conv _ _ _ => False
  | .add _ _ _ => False
  | .bmod _ _ _ => False
  | .invp _ _ _ => False
  | .inv2k _ _ _ => True
  | .mov _ _ => False
  | .ldc _ _ => False

/-- The error codes a command can raise (R206). -/
def canRaise : Instr → ErrCode → Prop
  | .conv _ _ _, e => e = .badN ∨ e = .overflow
  | .add _ _ _, e => e = .badN ∨ e = .overflow
  | .bmod _ _ _, e => e = .badN ∨ e = .badModulus
  | .invp _ _ _, e => e = .badN ∨ e = .badModulus ∨ e = .notInvertible
  | .inv2k _ _ _, e => e = .badN ∨ e = .badModulus ∨ e = .notInvertible ∨ e = .iterCap
  | .mov _ _, e => e = .badN
  | .ldc _ _, e => e = .badN

/-! ### Whose turn a step is -/

/-- The next step is the Host's write of wdata to the port address addr. -/
def State.hostWrites (s : State) (addr : BusAddr) (wdata : Word) : Prop :=
  s.rstN = true ∧ ∃ rest, s.inputs = .host (.write addr wdata) :: rest

/-- The next step is the Host's read of the port address addr. -/
def State.hostReads (s : State) (addr : BusAddr) : Prop :=
  s.rstN = true ∧ ∃ rest, s.inputs = .host (.read addr) :: rest

/-- The next step is the Unit's: scheduled, or by default on an empty schedule. -/
def State.unitTurn (s : State) : Prop :=
  s.rstN = true ∧ (s.inputs = [] ∨ ∃ rest, s.inputs = .unit :: rest)

/-- The next step takes the reset step: a CTRL write with bit 31 set, rst_n going to 0, or
rst_n returning to 1 (R240). -/
def State.resetTurn (s : State) : Prop :=
  (∃ w, s.hostWrites 0x00028#20 w ∧ w.getLsbD 31 = true) ∨
  ∃ level rest, s.inputs = .rstN level :: rest ∧ ¬ (level = true ∧ s.rstN = true)

/-- The next step completes the command in flight. -/
def State.completionTurn (s : State) : Prop := s.unitTurn ∧ ∃ w, s.pending = .cmd w

end Sys2Proof.Machine
end

