-- ==== Sys2Proof/Certificates/Slice0/Obligations.lean ====
section
/-! DEFINITION. The statements for the provers. Each docstring says which rule of the spec
it formalises. Where a statement speaks of a step, s.inputs is the environment's schedule
and the step uses up its first input. That the step of an empty schedule is the Unit's is the model's
choice (log entry 3); a statement that rests on it says so. -/

open Sys2Proof Sys2Proof.Machine Host.Outcome

/-! ### Encoding -/

/-- R101's table of examples, word for word. -/
def Obligations.ExampleWordsDecode : Prop :=
  decode 0x05820000#32 = .term (.conv 3 0 1) ∧
  decode 0x0BF40000#32 = .term (.add 7 7 2) ∧
  decode 0x0DB08000#32 = .term (.bmod 3 3 .q) ∧
  decode 0x0E400000#32 = .term (.bmod 4 4 .p) ∧
  decode 0x0CA10000#32 = .term (.bmod 1 2 .m) ∧
  decode 0x11000000#32 = .term (.invp 2 0 .p) ∧
  decode 0x12818000#32 = .term (.invp 5 0 .two) ∧
  decode 0x14808000#32 = .term (.inv2k 1 0 .q) ∧
  decode 0x1B100000#32 = .term (.mov 6 1) ∧
  decode 0x1F800003#32 = .term (.ldc 7 3) ∧
  decode 0x1C7FFFFF#32 = .term (.ldc 0 (-1)) ∧
  decode 0x1FBFFFFF#32 = .term (.ldc 7 4194303) ∧
  decode 0x1FC00000#32 = .term (.ldc 7 (-4194304))

/-- R100: the encoder's formulas, and that decoding inverts it on every legal term. -/
def Obligations.DecodeInvertsEncode : Prop :=
  (∀ i : Instr, i.wellFormed = true → decode (encode i) = .term i) ∧
  (∀ d a b : VReg,
    (encode (.conv d a b)).toNat = 0x04000000 + d.val * 2 ^ 23 + a.val * 2 ^ 20 + b.val * 2 ^ 17 ∧
    (encode (.add d a b)).toNat = 0x08000000 + d.val * 2 ^ 23 + a.val * 2 ^ 20 + b.val * 2 ^ 17) ∧
  (∀ (d a : VReg) (ms : Ms),
    (encode (.bmod d a ms)).toNat = 0x0C000000 + d.val * 2 ^ 23 + a.val * 2 ^ 20 + (bitsOfMs ms).toNat * 2 ^ 15 ∧
    (encode (.invp d a ms)).toNat = 0x10000000 + d.val * 2 ^ 23 + a.val * 2 ^ 20 + (bitsOfMs ms).toNat * 2 ^ 15 ∧
    (encode (.inv2k d a ms)).toNat = 0x14000000 + d.val * 2 ^ 23 + a.val * 2 ^ 20 + (bitsOfMs ms).toNat * 2 ^ 15) ∧
  (∀ d a : VReg, (encode (.mov d a)).toNat = 0x18000000 + d.val * 2 ^ 23 + a.val * 2 ^ 20) ∧
  (∀ (d : VReg) (imm : Int),
    (encode (.ldc d imm)).toNat = 0x1C000000 + d.val * 2 ^ 23 + (imm % 2 ^ 23).toNat)

/-- A word that decodes to a command is the one encoding of that command, and the command is
well formed: no bit of a legal word is ignored (R97, R99, R100). -/
def Obligations.LegalWordIsItsEncoding : Prop :=
  ∀ (w : Word) (i : Instr), decode w = .term i → i.wellFormed = true ∧ encode i = w

/-- R96: a word encodes the mnemonic of a row exactly when (w AND mask) == match; a word whose op
has no mnemonic is illegal. -/
def Obligations.WordsMatchTheOpcodeTable : Prop :=
  ∀ w : Word,
    ((∃ d a b, decode w = .term (.conv d a b)) ↔ w &&& 0xFC01FFFF#32 = 0x04000000#32) ∧
    ((∃ d a b, decode w = .term (.add d a b)) ↔ w &&& 0xFC01FFFF#32 = 0x08000000#32) ∧
    ((∃ d a ms, decode w = .term (.bmod d a ms)) ↔ w &&& 0xFC0E7FFF#32 = 0x0C000000#32) ∧
    ((∃ d a ms, decode w = .term (.invp d a ms)) ↔ w &&& 0xFC0E7FFF#32 = 0x10000000#32) ∧
    ((∃ d a ms, decode w = .term (.inv2k d a ms)) ↔ w &&& 0xFC0E7FFF#32 = 0x14000000#32) ∧
    ((∃ d a, decode w = .term (.mov d a)) ↔ w &&& 0xFC0FFFFF#32 = 0x18000000#32) ∧
    ((∃ d imm, decode w = .term (.ldc d imm)) ↔ w &&& 0xFC000000#32 = 0x1C000000#32) ∧
    ((w.toNat / 2 ^ 26 = 0x00 ∨ 0x08 ≤ w.toNat / 2 ^ 26) → ∀ i, decode w ≠ .term i)

/-- R99, with every field read off the word by division and remainder (R93, R94, R95). -/
def Obligations.DecoderReadsTheFields : Prop :=
  ∀ w : Word,
    let op : Nat := w.toNat / 2 ^ 26
    let vd : VReg := Fin.ofNat 8 (w.toNat / 2 ^ 23)
    let va : VReg := Fin.ofNat 8 (w.toNat / 2 ^ 20)
    let vb : VReg := Fin.ofNat 8 (w.toNat / 2 ^ 17)
    let ms : Nat := w.toNat / 2 ^ 15 % 4
    let sel : Ms := if ms = 0 then .p else if ms = 1 then .q else if ms = 2 then .m else .two
    let z : Nat := w.toNat % 2 ^ 15
    let x : Nat := w.toNat % 2 ^ 23
    decode w =
      if op = 0x01 then (if ms = 0 ∧ z = 0 then .term (.conv vd va vb) else .illegal .mustBeZero)
      else if op = 0x02 then (if ms = 0 ∧ z = 0 then .term (.add vd va vb) else .illegal .mustBeZero)
      else if op = 0x03 then (if vb = 0 ∧ z = 0 then .term (.bmod vd va sel) else .illegal .mustBeZero)
      else if op = 0x04 then (if vb = 0 ∧ z = 0 then .term (.invp vd va sel) else .illegal .mustBeZero)
      else if op = 0x05 then (if vb = 0 ∧ z = 0 then .term (.inv2k vd va sel) else .illegal .mustBeZero)
      else if op = 0x06 then (if vb = 0 ∧ ms = 0 ∧ z = 0 then .term (.mov vd va) else .illegal .mustBeZero)
      else if op = 0x07 then .term (.ldc vd (if x < 2 ^ 22 then (x : Int) else (x : Int) - 2 ^ 23))
      else .illegal .undefinedOp

/-- R97, R98: from an idle PRAU with ERR = 0, an illegal word (an undefined op, or a nonzero
must-be-zero field of a legal op) is accepted and completes with ILLEGAL_CMD and no other
effect: the whole state after the Host's write and the Unit's step. -/
def Obligations.IllegalWordCompletesWithIllegalCmd : Prop :=
  ∀ (s : State) (w : Word) (rest : List Input),
    s.rstN = true → s.pending = .none → s.err = false →
    s.inputs = .host (.write 0x00020#20 w) :: .unit :: rest →
    (let op := w.toNat / 2 ^ 26
     let vb := w.toNat / 2 ^ 17 % 8
     let ms : Nat := w.toNat / 2 ^ 15 % 4
     let z : Nat := w.toNat % 2 ^ 15
     op = 0 ∨ 0x08 ≤ op ∨
     ((op = 0x01 ∨ op = 0x02) ∧ ¬ (ms = 0 ∧ z = 0)) ∨
     ((op = 0x03 ∨ op = 0x04 ∨ op = 0x05) ∧ ¬ (vb = 0 ∧ z = 0)) ∨
     (op = 0x06 ∧ ¬ (vb = 0 ∧ ms = 0 ∧ z = 0))) →
    Host.Core.run Sys2Proof.core 2 s =
      next { s with
        inputs := rest, bus := some (.write false), cmdLast := w, done := false
        err := true, errcode := 1#4, errinfo := w, pending := .none }

/-! ### Issue, completion and the step -/

/-- R200: the whole state after an accepted CMD write, whatever the word holds. -/
def Obligations.IdleCmdWriteIsAccepted : Prop :=
  ∀ (s : State) (w : Word) (rest : List Input),
    s.rstN = true → s.inputs = .host (.write 0x00020#20 w) :: rest → s.pending = .none → s.err = false →
    ∃ t, step s = next t ∧
      t = { s with inputs := rest, bus := some (.write false), cmdLast := w, done := false, pending := .cmd w } ∧
      (statusWord t).getLsbD 0 = true

/-- R201: the whole state after a rejected CMD write. -/
def Obligations.BusyOrErrCmdWriteIsRejected : Prop :=
  ∀ (s : State) (w : Word) (rest : List Input),
    s.rstN = true → s.inputs = .host (.write 0x00020#20 w) :: rest → (s.pending ≠ .none ∨ s.err = true) →
    step s = next { s with inputs := rest, bus := some (.write false), cmdrej := true }

/-- A step runs the decoded command: where the word in flight decodes to i and the next step
is the Unit's, the step is exec of i, the schedule's input used up (R202, R205). -/
def Obligations.StepRunsTheDecodedCommand : Prop :=
  ∀ (s : State) (w : Word) (i : Instr),
    s.rstN = true → s.pending = .cmd w → decode w = .term i →
    (s.inputs = [] → step s = exec i s) ∧
    (∀ rest, s.inputs = .unit :: rest → step s = exec i { s with inputs := rest })

/-- The loaded word of a well-formed command is the next thing that runs (the model's own
withFetchWord, log entry 6). -/
def Obligations.FetchWordRunsTheCommand : Prop :=
  ∀ (s : State) (i : Instr), i.wellFormed = true →
    step (s.withFetchWord 32 (encode i).toNat) =
      exec i { s.withFetchWord 32 (encode i).toNat with inputs := s.inputs }

/-- No command hangs the PRAU: on every state and every operand a command completes, in one
step, and leaves nothing in flight (R202, R203, R249). -/
def Obligations.EveryCommandCompletes : Prop :=
  ∀ (i : Instr) (s : State), ∃ t, exec i s = next t ∧ t.pending = .none

/-- No schedule of transactions, Unit steps and resets stops the machine (R219). -/
def Obligations.EveryRunIsSafe : Prop :=
  ∀ (k : Nat) (s : State), SafeRun k s

/-- The frame of a successful command (R22, R121, R202): nothing changes but the destination
register, DONE, pending and, for INV2K, ITERS; every slot of the destination from N on is 0. -/
def Obligations.SuccessChangesOnlyItsDestination : Prop :=
  ∀ (i : Instr) (s t : State), s.err = false → exec i s = next t → t.err = false →
    t = { s with v := t.v, iters := t.iters, done := true, pending := .none } ∧
    (∀ r, r ≠ i.dest → ∀ k, t.slot r k = s.slot r k) ∧
    (∀ k, s.degree ≤ k → t.slot i.dest k = 0#64) ∧
    (¬ isInv2k i → t.iters = s.iters)

/-- R203: the frame of a failed command. ERR, ERRCODE, ERRINFO and pending are written, ITERS
by an INV2K that passed its modulus check, and nothing else: no data changes. -/
def Obligations.ErrorChangesNoData : Prop :=
  ∀ (i : Instr) (s t : State) (w : Word),
    s.pending = .cmd w → s.err = false → exec i s = next t → t.err = true →
    (∃ e, t = { s with err := true, errcode := codeOf e, errinfo := w, iters := t.iters, pending := .none }) ∧
    (¬ isInv2k i ∨ illegalModulus s i ∨ ¬ s.legalN → t.iters = s.iters)

/-- R205: of the conditions that hold at once the first in the order ILLEGAL_CMD, BAD_N,
BAD_MODULUS is reported, whatever the data; a data error is reported only after all three. -/
def Obligations.FirstErrorIsReported : Prop :=
  ∀ (s : State) (w : Word), s.pending = .cmd w → s.unitTurn →
    (∀ why, decode w = .illegal why →
      step s = next { s with inputs := s.inputs.tail, err := true, errcode := 1#4, errinfo := w, pending := .none }) ∧
    (∀ i, decode w = .term i → ¬ s.legalN →
      step s = next { s with inputs := s.inputs.tail, err := true, errcode := 2#4, errinfo := w, pending := .none }) ∧
    (∀ i, decode w = .term i → s.legalN → illegalModulus s i →
      step s = next { s with inputs := s.inputs.tail, err := true, errcode := 3#4, errinfo := w, pending := .none }) ∧
    (∀ i, decode w = .term i → s.legalN → ¬ illegalModulus s i → s.err = false →
      ∃ t, step s = next t ∧ (t.err = false ∨ t.errcode = 4#4 ∨ t.errcode = 5#4 ∨ t.errcode = 6#4))

/-- R206: which command can raise which code (ILLEGAL_CMD is of words, not of commands). -/
def Obligations.CommandsRaiseTheirOwnCodes : Prop :=
  ∀ (i : Instr) (s t : State), s.err = false → exec i s = next t → t.err = true →
    ∃ e, canRaise i e ∧ t.errcode = codeOf e

/-! ### Ring arithmetic -/

/-- R125, R126: CONV on every state whose exact product fits: the cyclic product as the
spec's double sum in slots 0 .. N-1, 0 from N on, and the frame. -/
def Obligations.ConvComputesTheRingProduct : Prop :=
  ∀ (s : State) (vd va vb : VReg), s.legalN →
    (∀ k < s.degree, Fits (ringProduct s.degree (s.coef va) (s.coef vb) k)) →
    ∃ v, exec (.conv vd va vb) s = next { s with v := v, done := true, pending := .none } ∧
      WroteBack s.v v vd s.degree (ringProduct s.degree (s.coef va) (s.coef vb))

/-- R127: ADD on every state whose exact sums fit. -/
def Obligations.AddComputesThePointwiseSum : Prop :=
  ∀ (s : State) (vd va vb : VReg), s.legalN →
    (∀ k < s.degree, Fits (s.coef va k + s.coef vb k)) →
    ∃ v, exec (.add vd va vb) s = next { s with v := v, done := true, pending := .none } ∧
      WroteBack s.v v vd s.degree (fun k => s.coef va k + s.coef vb k)

/-- R122: a result that does not fit is an error with code OVERFLOW, and no register is
written; CONV and ADD never wrap, saturate or truncate. -/
def Obligations.UnfitResultRaisesOverflow : Prop :=
  ∀ (s : State) (w : Word) (vd va vb : VReg), s.legalN → s.pending = .cmd w →
    ((∃ k < s.degree, ¬ Fits (ringProduct s.degree (s.coef va) (s.coef vb) k)) →
      exec (.conv vd va vb) s = next { s with err := true, errcode := 5#4, errinfo := w, pending := .none }) ∧
    ((∃ k < s.degree, ¬ Fits (s.coef va k + s.coef vb k)) →
      exec (.add vd va vb) s = next { s with err := true, errcode := 5#4, errinfo := w, pending := .none })

/-- R128: BMOD on every state and every modulus but 0: each coefficient becomes the balanced
residue of the same class. -/
def Obligations.BmodBalancesEveryCoefficient : Prop :=
  ∀ (s : State) (vd va : VReg) (ms : Ms), s.legalN → modSel s ms ≠ 0 →
    ∃ v res, exec (.bmod vd va ms) s = next { s with v := v, done := true, pending := .none } ∧
      WroteBack s.v v vd s.degree res ∧
      ∀ k < s.degree, Balanced (modSel s ms) (res k) ∧ res k ≡ s.coef va k [ZMOD modSel s ms]

/-- R11, R123: the balanced residue by floor division, its interval and its class. -/
def Obligations.BalancedResidueByFloorMod : Prop :=
  ∀ (c : Int) (m : Nat), 1 ≤ m →
    balmod c m = Int.fmod (c + Int.fdiv m 2) m - Int.fdiv m 2 ∧
    (m % 2 = 1 → -((m : Int) - 1) / 2 ≤ balmod c m ∧ balmod c m ≤ ((m : Int) - 1) / 2) ∧
    (m % 2 = 0 → -(m : Int) / 2 ≤ balmod c m ∧ balmod c m ≤ (m : Int) / 2 - 1) ∧
    balmod c m ≡ c [ZMOD m]

/-- R124: the consequences, each of them. -/
def Obligations.BalancedResidueConsequences : Prop :=
  (∀ c, balmod c 1 = 0) ∧
  (∀ c : Int, (c % 2 = 1 → balmod c 2 = -1) ∧ (c % 2 = 0 → balmod c 2 = 0)) ∧
  (∀ (c : Int) (m : Nat), 1 ≤ m → balmod (balmod c m) m = balmod c m) ∧
  (∀ (c : Int) (m : Nat), 1 ≤ m → Balanced m c → balmod c m = c) ∧
  (∀ q : Nat, 2 ≤ q → balmod (-1) q = -1) ∧
  (∀ h : Nat, 1 ≤ h → balmod h (2 * h) = -h) ∧
  (∀ (c : Int) (m : Nat), -2 ^ 63 ≤ c → c ≤ 2 ^ 63 - 1 → 1 ≤ m → m ≤ 2 ^ 32 - 1 →
    -2 ^ 31 ≤ balmod c m ∧ balmod c m ≤ 2 ^ 31 - 1 ∧ Fits (balmod c m))

/-- R129: MOV copies slots 0 .. N-1 and zeroes the rest of vd; vd = va is allowed. -/
def Obligations.MovCopiesThePrefix : Prop :=
  ∀ (s : State) (vd va : VReg), s.legalN →
    ∃ v, exec (.mov vd va) s = next { s with v := v, done := true, pending := .none } ∧
      WroteBack s.v v vd s.degree (s.coef va)

/-- R130: LDC leaves the constant in slot 0 and 0 in every other slot. -/
def Obligations.LdcLoadsTheConstant : Prop :=
  ∀ (s : State) (vd : VReg) (imm : Int), s.legalN → (Instr.ldc vd imm).wellFormed = true →
    ∃ v, exec (.ldc vd imm) s = next { s with v := v, done := true, pending := .none } ∧
      WroteBack s.v v vd s.degree (fun k => if k = 0 then imm else 0)

/-- R131: on polynomials of length n the convolution has exactly n coefficients, is
associative and commutative, distributes over pointwise addition, and has ONE as identity. -/
def Obligations.ConvolutionIsARingProduct : Prop :=
  ∀ (n : Nat) (a b c : List Int), a.length = n → b.length = n → c.length = n →
    (cycConv n a b).length = n ∧
    cycConv n a (cycConv n b c) = cycConv n (cycConv n a b) c ∧
    cycConv n a b = cycConv n b a ∧
    cycConv n a (List.zipWith (· + ·) b c) = List.zipWith (· + ·) (cycConv n a b) (cycConv n a c) ∧
    cycConv n a (onePoly n) = a

/-- R102: SCALE's two commands multiply va by the constant, whatever vd is; vt must differ from va. -/
def Obligations.ScaleMultipliesByTheConstant : Prop :=
  ∀ (s : State) (vd va vt : VReg) (imm : Int), vt ≠ va → s.legalN → (Instr.ldc vt imm).wellFormed = true →
    (∀ k < s.degree, Fits (imm * s.coef va k)) →
    expand (.scale vd va vt imm) = [.ldc vt imm, .conv vd va vt] ∧
    ∃ t v, exec (.ldc vt imm) s = next t ∧
      exec (.conv vd va vt) t = next { t with v := v, done := true, pending := .none } ∧
      WroteBack t.v v vd s.degree (fun k => imm * s.coef va k)

/-- R23: slots from N on are not read. Two states that differ only there give the same answer
in every slot below N and in every other field, and, on success, in the whole destination. -/
def Obligations.SlotsFromNOnAreNotRead : Prop :=
  ∀ (i : Instr) (s t t' : State) (v : Memory),
    (∀ r, ∀ k < s.degree, Poly.get (v.reg r) k = s.slot r k) →
    exec i s = next t → exec i { s with v := v } = next t' →
    t' = { t with v := t'.v } ∧
    (∀ r, ∀ k < s.degree, t'.slot r k = t.slot r k) ∧
    (s.done = false → t.done = true → ∀ k, t'.slot i.dest k = t.slot i.dest k)

/-! ### Modular inversion -/

/-- R151: the primality check is exact on [0, 2^32 - 1], and INVP raises BAD_MODULUS exactly
on the moduli that fail it; with the rule's examples. -/
def Obligations.PrimalityCheckIsExact : Prop :=
  (∀ m < 2 ^ 32, isPrime m = true ↔ 2 ≤ m ∧ ∀ d, 2 ≤ d → d < m → ¬ d ∣ m) ∧
  (∀ (s : State) (w : Word) (vd va : VReg) (ms : Ms), s.legalN → s.pending = .cmd w → s.err = false →
    ((∃ t, exec (.invp vd va ms) s = next t ∧ t.errcode = 3#4 ∧ t.err = true) ↔ isPrime (modSel s ms) = false)) ∧
  isPrime 0 = false ∧ isPrime 1 = false ∧ isPrime 4 = false ∧ isPrime 9 = false ∧
  isPrime (2 ^ 20) = false ∧ isPrime (2 ^ 32 - 1) = false ∧
  isPrime 2 = true ∧ isPrime 3 = true ∧ isPrime 7 = true ∧ isPrime (2 ^ 31 - 1) = true

/-- R152, R153: the reference algorithm answers a balanced inverse exactly when an inverse
exists, and inverses are unique mod p. -/
def Obligations.InverseIsFoundExactlyWhenOneExists : Prop :=
  ∀ (n p : Nat) (a : List Int), 1 ≤ n → Nat.Prime p → p < 2 ^ 32 → a.length = n →
    (∀ h, invModPrime n p a = some h →
      h.length = n ∧ (∀ k < n, Balanced p (h.getD k 0)) ∧
      InverseMod n p (fun k => a.getD k 0) (fun k => h.getD k 0)) ∧
    (invModPrime n p a = none → ¬ ∃ h, InverseMod n p (fun k => a.getD k 0) h) ∧
    (∀ g h, InverseMod n p (fun k => a.getD k 0) g → InverseMod n p (fun k => a.getD k 0) h →
      ∀ k < n, g k ≡ h k [ZMOD p])

/-- R154: INVP with a prime modulus and an invertible operand succeeds with the balanced
inverse. -/
def Obligations.InvpComputesTheInverse : Prop :=
  ∀ (s : State) (vd va : VReg) (ms : Ms), s.legalN → Nat.Prime (modSel s ms) →
    (∃ h, InverseMod s.degree (modSel s ms) (s.coef va) h) →
    ∃ v res, exec (.invp vd va ms) s = next { s with v := v, done := true, pending := .none } ∧
      WroteBack s.v v vd s.degree res ∧
      (∀ k < s.degree, Balanced (modSel s ms) (res k)) ∧
      InverseMod s.degree (modSel s ms) (s.coef va) res

/-- R153, R154: INVP writes what the reference algorithm answers, on every state on which it
answers an inverse. -/
def Obligations.InvpWritesTheReferenceResult : Prop :=
  ∀ (s : State) (vd va : VReg) (ms : Ms) (h : List Int), s.legalN → isPrime (modSel s ms) = true →
    invModPrime s.degree (modSel s ms) (src s s.degree va) = some h →
    ∃ v, exec (.invp vd va ms) s = next { s with v := v, done := true, pending := .none } ∧
      WroteBack s.v v vd s.degree (fun k => h.getD k 0)

/-- R154, R158: an operand without an inverse ends in NOT_INVERTIBLE: INVP mod its prime, with
ITERS unchanged, INV2K mod 2, with ITERS 0. -/
def Obligations.NoInverseRaisesNotInvertible : Prop :=
  ∀ (s : State) (w : Word) (vd va : VReg) (ms : Ms), s.legalN → s.pending = .cmd w →
    (Nat.Prime (modSel s ms) → (¬ ∃ h, InverseMod s.degree (modSel s ms) (s.coef va) h) →
      exec (.invp vd va ms) s = next { s with err := true, errcode := 4#4, errinfo := w, pending := .none }) ∧
    ((∃ k, 1 ≤ k ∧ k ≤ 31 ∧ modSel s ms = 2 ^ k) → (¬ ∃ h, InverseMod s.degree 2 (s.coef va) h) →
      exec (.inv2k vd va ms) s =
        next { s with err := true, errcode := 4#4, errinfo := w, iters := 0#32, pending := .none })

/-- R155: the power-of-two check, and BAD_MODULUS exactly on the moduli that fail it. -/
def Obligations.PowerOfTwoCheckIsExact : Prop :=
  (∀ m k : Nat, pow2Exponent m = some k ↔ m = 2 ^ k ∧ 1 ≤ k ∧ k ≤ 31) ∧
  (∀ (s : State) (w : Word) (vd va : VReg) (ms : Ms), s.legalN → s.pending = .cmd w → s.err = false →
    ((∃ t, exec (.inv2k vd va ms) s = next t ∧ t.errcode = 3#4 ∧ t.err = true) ↔
      ¬ ∃ k, 1 ≤ k ∧ k ≤ 31 ∧ modSel s ms = 2 ^ k)) ∧
  pow2Exponent 0 = none ∧ pow2Exponent 1 = none ∧ pow2Exponent 2 = some 1

/-- R156: CAP(2^k) = 2 * ceil(log2(k)) + 4, and the rule's table of its values. -/
def Obligations.IterationCapFormula : Prop :=
  (∀ k, 1 ≤ k → k ≤ 31 → ∃ c, iterationCap k = 2 * c + 4 ∧ k ≤ 2 ^ c ∧ ∀ d < c, 2 ^ d < k) ∧
  iterationCap 1 = 4 ∧ iterationCap 2 = 6 ∧
  (∀ k, 3 ≤ k → k ≤ 4 → iterationCap k = 8) ∧ (∀ k, 5 ≤ k → k ≤ 8 → iterationCap k = 10) ∧
  (∀ k, 9 ≤ k → k ≤ 16 → iterationCap k = 12) ∧ (∀ k, 17 ≤ k → k ≤ 31 → iterationCap k = 14)

/-- R157: one refinement, as the rule's formula over the double sum of R125. -/
def Obligations.RefinementFormula : Prop :=
  ∀ (n m : Nat) (a h : List Int), a.length = n → h.length = n →
    (refine n m a h).length = n ∧ ∀ k < n,
    (refine n m a h).getD k 0 =
      balmod (ringProduct n (fun j => h.getD j 0)
        (fun j => (if j = 0 then 2 else 0) - ringProduct n (fun i => h.getD i 0) (fun i => a.getD i 0) j) k) m

/-- R158, R159, R160: INV2K with m = 2^k, k >= 2, and an operand invertible mod 2 succeeds with the
balanced inverse mod m. h0 is the mod-2 seed, and it is the number of refinements of it (R157) that
the loop makes: the iterate after it refinements is the first that is an inverse mod m. ITERS is that
number, at most ceil(log2 k), and the destination holds that iterate. -/
def Obligations.Inv2kComputesTheInverse : Prop :=
  ∀ (s : State) (vd va : VReg) (ms : Ms) (k : Nat), s.legalN → 2 ≤ k → k ≤ 31 → modSel s ms = 2 ^ k →
    (∃ h, InverseMod s.degree 2 (s.coef va) h) →
    ∃ v it h0, invModPrime s.degree 2 (src s s.degree va) = some h0 ∧
      let iterate : Nat → Nat → Int := fun i j =>
        ((refine s.degree (2 ^ k) (src s s.degree va))^[i] h0).getD j 0
      exec (.inv2k vd va ms) s =
        next { s with v := v, iters := BitVec.ofNat 32 it, done := true, pending := .none } ∧
      (∀ i < it, ¬ InverseMod s.degree (2 ^ k) (s.coef va) (iterate i)) ∧
      InverseMod s.degree (2 ^ k) (s.coef va) (iterate it) ∧
      (∀ c, k ≤ 2 ^ c → it ≤ c) ∧
      (∀ j < s.degree, Balanced (2 ^ k) (iterate it j)) ∧
      WroteBack s.v v vd s.degree (iterate it)

/-- R160: INV2K with m = 2 and an operand invertible mod 2 always performs CAP(2) = 4
refinements and ends in ITER_CAP. -/
def Obligations.Inv2kModTwoReachesTheCap : Prop :=
  ∀ (s : State) (w : Word) (vd va : VReg) (ms : Ms), s.legalN → s.pending = .cmd w → modSel s ms = 2 →
    (∃ h, InverseMod s.degree 2 (s.coef va) h) →
    exec (.inv2k vd va ms) s =
      next { s with err := true, errcode := 6#4, errinfo := w, iters := 4#32, pending := .none }

/-- R158, R159: INV2K writes the iterate on which the test passed and the count of its
refinements, on every state on which the loop converges. -/
def Obligations.Inv2kWritesTheConvergedIterate : Prop :=
  ∀ (s : State) (vd va : VReg) (ms : Ms) (k it : Nat) (h g : List Int), s.legalN →
    pow2Exponent (modSel s ms) = some k →
    invModPrime s.degree 2 (src s s.degree va) = some h →
    newtonLoop s.degree (modSel s ms) (src s s.degree va) (iterationCap k) 0 h = .converged g it →
    ∃ v, exec (.inv2k vd va ms) s =
        next { s with v := v, iters := BitVec.ofNat 32 it, done := true, pending := .none } ∧
      WroteBack s.v v vd s.degree (fun j => g.getD j 0)

/-! ### The register block and the coefficient window -/

/-- R34, R161: a read of STATUS returns PARAMS_VALID computed from the current CFG_P and CFG_Q,
busy or not; it is 1 at reset. -/
def Obligations.ParamsValidIsComputed : Prop :=
  (∀ (s : State) (rest : List Input), s.rstN = true → s.inputs = .host (.read 0x024#20) :: rest →
    ∃ x : Word, step s = next { s with inputs := rest, bus := some (.read x false) } ∧
      x.getLsbD 4 = decide (s.cfgP.toNat < s.cfgQ.toNat ∧ Nat.gcd s.cfgP.toNat s.cfgQ.toNat = 1)) ∧
  (∀ p : Params, (statusWord (State.resetWith p)).getLsbD 4 = true)

/-- R64: a read of each register of the block returns its value with err = 0 and changes no
state; STATUS by the bits of R29. -/
def Obligations.BlockReads : Prop :=
  ∀ (s : State) (a : BusAddr) (rest : List Input), s.rstN = true → s.inputs = .host (.read a) :: rest →
    let answers : Word → Prop := fun x => step s = next { s with inputs := rest, bus := some (.read x false) }
    (a = 0x000#20 → answers 0x50524155#32) ∧
    (a = 0x004#20 → answers 0x00000001#32) ∧
    (a = 0x008#20 → answers (64#8 ++ 8#8 ++ BitVec.ofNat 16 s.params.nmax)) ∧
    (a = 0x00C#20 → answers s.iters) ∧
    (a = 0x010#20 → answers s.cfgN) ∧
    (a = 0x014#20 → answers s.cfgP) ∧
    (a = 0x018#20 → answers s.cfgQ) ∧
    (a = 0x01C#20 → answers s.cfgM) ∧
    (a = 0x020#20 → answers s.cmdLast) ∧
    (a = 0x024#20 → answers (statusWord s)) ∧
    (a = 0x028#20 → answers (0#30 ++ BitVec.ofBool s.ieErr ++ BitVec.ofBool s.ieDone)) ∧
    (a = 0x02C#20 → answers s.errinfo)

/-- R29: the bits of STATUS; the reserved bits read 0. -/
def Obligations.StatusBits : Prop :=
  ∀ s : State,
    (statusWord s).getLsbD 0 = decide (s.pending ≠ .none) ∧
    (statusWord s).getLsbD 1 = s.done ∧
    (statusWord s).getLsbD 2 = s.err ∧
    (statusWord s).getLsbD 3 = s.cmdrej ∧
    (statusWord s).getLsbD 5 = s.accerr ∧
    (∀ k < 4, (statusWord s).getLsbD (8 + k) = s.errcode.getLsbD k) ∧
    (∀ k, k = 6 ∨ k = 7 ∨ 12 ≤ k → (statusWord s).getLsbD k = false)

/-- R24 to R27, R64, R70: a CFG write is stored as written while idle, and dropped with
ACCERR while busy; a write to a read-only register does nothing (R37 to R39). -/
def Obligations.CfgAndReadOnlyWrites : Prop :=
  ∀ (s : State) (a : BusAddr) (x : Word) (rest : List Input),
    s.rstN = true → s.inputs = .host (.write a x) :: rest →
    let u : State := { s with inputs := rest, bus := some (.write false) }
    (s.pending = .none → a = 0x010#20 → step s = next { u with cfgN := x }) ∧
    (s.pending = .none → a = 0x014#20 → step s = next { u with cfgP := x }) ∧
    (s.pending = .none → a = 0x018#20 → step s = next { u with cfgQ := x }) ∧
    (s.pending = .none → a = 0x01C#20 → step s = next { u with cfgM := x }) ∧
    (s.pending ≠ .none → (a = 0x010#20 ∨ a = 0x014#20 ∨ a = 0x018#20 ∨ a = 0x01C#20) →
      step s = next { u with accerr := true }) ∧
    ((a = 0x000#20 ∨ a = 0x004#20 ∨ a = 0x008#20 ∨ a = 0x00C#20 ∨ a = 0x02C#20) → step s = next u)

/-- R29, R32, R36: a write to STATUS clears exactly the named W1C fields, ERRCODE with ERR;
a write to CTRL without SOFT_RESET sets the two enables, busy or not. -/
def Obligations.StatusAndCtrlWrites : Prop :=
  ∀ (s : State) (x : Word) (rest : List Input), s.rstN = true →
    (s.inputs = .host (.write 0x024#20 x) :: rest →
      step s = next { s with
        inputs := rest, bus := some (.write false)
        done := if x.getLsbD 1 then false else s.done
        err := if x.getLsbD 2 then false else s.err
        errcode := if x.getLsbD 2 then 0#4 else s.errcode
        cmdrej := if x.getLsbD 3 then false else s.cmdrej
        accerr := if x.getLsbD 5 then false else s.accerr }) ∧
    (s.inputs = .host (.write 0x028#20 x) :: rest → x.getLsbD 31 = false →
      step s = next { s with
        inputs := rest, bus := some (.write false), ieDone := x.getLsbD 0, ieErr := x.getLsbD 1 })

/-- R207: while ERR = 1 a CMD write is rejected; a STATUS write with bit 2 set clears ERR and
ERRCODE and restores nothing; the next CMD write is accepted. -/
def Obligations.ErrorHaltsUntilAcknowledged : Prop :=
  ∀ (s : State) (w1 w2 x : Word) (rest : List Input),
    s.rstN = true → s.pending = .none → s.err = true → x.getLsbD 2 = true →
    x.getLsbD 1 = false → x.getLsbD 3 = false → x.getLsbD 5 = false →
    s.inputs = .host (.write 0x020#20 w1) :: .host (.write 0x024#20 x) :: .host (.write 0x020#20 w2) :: rest →
    Host.Core.run Sys2Proof.core 3 s =
      next { s with
        inputs := rest, bus := some (.write false), cmdrej := true, err := false, errcode := 0#4
        cmdLast := w2, done := false, pending := .cmd w2 }

/-- R62, R63: a misaligned or reserved address completes with err = 1, changes no state, and a
read of it returns 0. -/
def Obligations.BadAddressIsABusError : Prop :=
  ∀ (s : State) (a : BusAddr) (x : Word) (rest : List Input), s.rstN = true →
    (a.toNat % 4 ≠ 0 ∨ (0x00030 ≤ a.toNat ∧ a.toNat ≤ 0x0FFFF) ∨ 0x50000 ≤ a.toNat) →
    (s.inputs = .host (.read a) :: rest →
      step s = next { s with inputs := rest, bus := some (.read 0#32 true) }) ∧
    (s.inputs = .host (.write a x) :: rest →
      step s = next { s with inputs := rest, bus := some (.write true) })

/-- R65: slot i of register r has its low word at 0x10000 + r*0x8000 + i*8 and its high word
4 bytes above; every aligned window address is one of these. -/
def Obligations.WindowAddressMap : Prop :=
  (∀ (r : VReg) (i : Nat), i < 4096 →
    decodeAddr (BitVec.ofNat 20 (0x10000 + r.val * 0x8000 + i * 8)) = .slot r i .lo ∧
    decodeAddr (BitVec.ofNat 20 (0x10000 + r.val * 0x8000 + i * 8 + 4)) = .slot r i .hi) ∧
  (∀ a : BusAddr, a.toNat % 4 = 0 → 0x10000 ≤ a.toNat → a.toNat ≤ 0x4FFFF →
    ∃ (r : VReg) (i : Nat) (half : Half), i < 4096 ∧ decodeAddr a = .slot r i half ∧
      a.toNat = 0x10000 + r.val * 0x8000 + i * 8 + (match half with | .lo => 0 | .hi => 4))

/-- R66, R68, R70: a coefficient read returns the half of the slot while idle, 0 with ACCERR
while busy, and a bus error from slot NMAX on, busy or not. -/
def Obligations.CoefficientReads : Prop :=
  ∀ (s : State) (a : BusAddr) (r : VReg) (i : Nat) (half : Half) (rest : List Input),
    s.rstN = true → s.inputs = .host (.read a) :: rest → decodeAddr a = .slot r i half →
    (s.params.nmax ≤ i → step s = next { s with inputs := rest, bus := some (.read 0#32 true) }) ∧
    (i < s.params.nmax → s.pending ≠ .none →
      step s = next { s with inputs := rest, bus := some (.read 0#32 false), accerr := true }) ∧
    (i < s.params.nmax → s.pending = .none →
      ∃ x : Word, step s = next { s with inputs := rest, bus := some (.read x false) } ∧
        x.toNat = (match half with
          | .lo => (s.coef r i % 2 ^ 32).toNat
          | .hi => (s.coef r i / 2 ^ 32 % 2 ^ 32).toNat))

/-- R67, R68, R70: a coefficient write replaces one half of the slot while idle and keeps the
other half and every other slot; it is dropped with ACCERR while busy, and a bus error from
slot NMAX on. The coefficient memory is in canonical form (an invariant, StepKeepsTheStateInvariant). -/
def Obligations.CoefficientWrites : Prop :=
  ∀ (s : State) (a : BusAddr) (x : Word) (r : VReg) (i : Nat) (half : Half) (rest : List Input),
    s.rstN = true → s.inputs = .host (.write a x) :: rest → decodeAddr a = .slot r i half →
    (s.params.nmax ≤ i → step s = next { s with inputs := rest, bus := some (.write true) }) ∧
    (i < s.params.nmax → s.pending ≠ .none →
      step s = next { s with inputs := rest, bus := some (.write false), accerr := true }) ∧
    (i < s.params.nmax → s.pending = .none → Memory.wf s.params.nmax s.v →
      ∃ v, step s = next { s with inputs := rest, bus := some (.write false), v := v } ∧
        Poly.get (v.reg r) i = (match half with
          | .lo => (s.slot r i).extractLsb' 32 32 ++ x
          | .hi => x ++ (s.slot r i).extractLsb' 0 32) ∧
        ∀ q k, (q ≠ r ∨ k ≠ i) → Poly.get (v.reg q) k = s.slot q k)

/-- R10, R67: a host stores a coefficient by its two halves in either order, and reads it back
as the same integer. -/
def Obligations.TwoHalfWritesStoreACoefficient : Prop :=
  ∀ (s : State) (c : Int) (r : VReg) (i : Nat) (rest : List Input), Fits c →
    s.rstN = true → s.pending = .none → i < 4096 → i < s.params.nmax → Memory.wf s.params.nmax s.v →
    let lo : Input := .host (.write (BitVec.ofNat 20 (0x10000 + r.val * 0x8000 + i * 8)) (BitVec.ofInt 32 c))
    let hi : Input :=
      .host (.write (BitVec.ofNat 20 (0x10000 + r.val * 0x8000 + i * 8 + 4)) (BitVec.ofInt 32 (c / 2 ^ 32)))
    (s.inputs = lo :: hi :: rest ∨ s.inputs = hi :: lo :: rest) →
    ∃ v, Host.Core.run Sys2Proof.core 2 s = next { s with inputs := rest, bus := some (.write false), v := v } ∧
      (Poly.get (v.reg r) i).toInt = c ∧
      ∀ q k, (q ≠ r ∨ k ≠ i) → Poly.get (v.reg q) k = s.slot q k

/-! ### Interrupt and reset -/

/-- R208: the interrupt line, its number at the host's controller, and that no event raises it but
the completion of a command and a write to the enables in CTRL. -/
def Obligations.InterruptLine : Prop :=
  (∀ s : State, s.irq = ((s.ieDone && s.done) || (s.ieErr && s.err)) ∧ s.irqLine = (s.params.prauIrq, s.irq)) ∧
  (∀ s t : State, step s = next t → s.irq = false → t.irq = true →
    s.completionTurn ∨ ∃ x, s.hostWrites 0x028#20 x ∧ x.getLsbD 31 = false)

/-- R42, R240: every reset leaves every piece of state at its value, and the end of INIT at its
second value: the whole table. A resetting CTRL write completes with err = 0. That rst_n takes the
reset values both at its fall and at its return, its level after each, and what the field bus holds
then are the model's (log entries 4 and 5: R42 dates the reset to the assertion, R240 to the
release). -/
def Obligations.ResetValues : Prop :=
  ∀ s : State, s.resetTurn → ∃ t, step s = next t ∧
    (∀ r k, t.slot r k = 0#64) ∧
    t.cfgN = 0x00000014#32 ∧ t.cfgP = 0x00000007#32 ∧ t.cfgQ = 0x00100000#32 ∧ t.cfgM = 0#32 ∧
    t.cmdLast = 0#32 ∧ t.done = false ∧ t.err = false ∧ t.cmdrej = false ∧ t.accerr = false ∧
    t.errcode = 0#4 ∧ t.ieDone = false ∧ t.ieErr = false ∧ t.iters = 0#32 ∧ t.errinfo = 0#32 ∧
    t.pending = .init ∧ statusWord t = 0x00000011#32 ∧ t.irq = false ∧
    t.params = s.params ∧ t.inputs = s.inputs.tail ∧
    ((∃ w, s.hostWrites 0x028#20 w) → t.bus = some (.write false) ∧ t.rstN = true) ∧
    (∀ rest, s.inputs = .rstN false :: rest → t.bus = none ∧ t.rstN = false) ∧
    (∀ rest, s.inputs = .rstN true :: rest → t.bus = s.bus ∧ t.rstN = true) ∧
    (t.rstN = true → ∃ u, unitStep t = next u ∧ u = { t with pending := .none } ∧
      statusWord u = 0x00000010#32 ∧ u.irq = false)

/-- R240: held in reset the PRAU answers no transaction and completes nothing; the state it is
held at is INIT's. -/
def Obligations.HeldInReset : Prop :=
  ∀ (s : State) (rest : List Input), s.rstN = false →
    (∀ t, s.inputs = .host t :: rest → step s = next { s with inputs := rest, bus := none }) ∧
    (s.inputs = .unit :: rest → step s = next { s with inputs := rest }) ∧
    (s.inputs = [] → step s = next s) ∧
    (s.inputs = .rstN true :: rest → ∃ t, step s = next t ∧ t.rstN = true ∧ t.pending = .init)

/-- R242: the end of INIT sets pending to NONE and nothing else, and after it STATUS reads
0x10 and every polynomial register is zero; during INIT a CMD write is rejected and a CFG
write or window access is dropped. The Unit's step is scheduled, or it is the step of an empty
schedule, which is the model's choice (log entries 3 and 6). -/
def Obligations.InitCompletion : Prop :=
  (∀ s : State, s.unitTurn → s.pending = .init →
    step s = next { s with inputs := s.inputs.tail, pending := .none }) ∧
  (∀ (p : Params) (is : List Input), (is = [] ∨ ∃ rest, is = .unit :: rest) →
    ∃ t, step { State.resetWith p with inputs := is } = next t ∧ statusWord t = 0x00000010#32 ∧
      t.irq = false ∧ ∀ r k, t.slot r k = 0#64) ∧
  (∀ (s : State) (a : BusAddr) (x : Word), s.pending = .init → s.hostWrites a x →
    ∃ t, step s = next t ∧ t.pending ≠ .none ∧
      (a = 0x020#20 → t.cmdrej = true ∧ t.cmdLast = s.cmdLast) ∧
      (a = 0x010#20 ∨ a = 0x014#20 ∨ a = 0x018#20 ∨ a = 0x01C#20 →
        t.accerr = true ∧ t.cfgN = s.cfgN ∧ t.cfgP = s.cfgP ∧ t.cfgQ = s.cfgQ ∧ t.cfgM = s.cfgM) ∧
      (∀ r i half, decodeAddr a = .slot r i half → i < s.params.nmax → t.accerr = true ∧ t.v = s.v)) ∧
  (∀ (s : State) (a : BusAddr), s.pending = .init → s.hostReads a →
    ∃ t, step s = next t ∧ ∀ r i half, decodeAddr a = .slot r i half → i < s.params.nmax →
      t.accerr = true ∧ t.bus = some (.read 0#32 false))

/-! ### Rules of the whole machine -/

/-- R22: a slot changes only by the successful completion of a command whose destination holds
it, by a host write to its window address while idle, or by a reset. -/
def Obligations.WritersOfAPolynomialRegister : Prop :=
  ∀ (s t : State) (r : VReg) (i : Nat), step s = next t → t.slot r i ≠ s.slot r i →
    s.resetTurn ∨
    (s.unitTurn ∧ t.done = true ∧ ∃ w c, s.pending = .cmd w ∧ decode w = .term c ∧ c.dest = r) ∨
    (s.pending = .none ∧ i < s.params.nmax ∧ ∃ a x h, s.hostWrites a x ∧ h < 2 ∧
      a.toNat = 0x10000 + r.val * 0x8000 + i * 8 + 4 * h)

/-- R30: BUSY is 1 exactly while something is in flight; it becomes 1 by an accepted CMD write and by
a reset and by nothing else, and 0 by the Unit's step, which always ends it, and by nothing else. The
Unit's step is also that of an empty schedule, which is the model's choice (log entry 3). -/
def Obligations.BusyTransitions : Prop :=
  ∀ s t : State, step s = next t →
    ((statusWord s).getLsbD 0 = s.busy ∧ (s.busy = true ↔ s.pending ≠ .none)) ∧
    (s.resetTurn → t.busy = true) ∧
    (∀ w, s.hostWrites 0x020#20 w → s.err = false → t.busy = true) ∧
    (s.busy = false → t.busy = true → s.resetTurn ∨ ∃ w, s.hostWrites 0x020#20 w ∧ s.err = false) ∧
    (s.busy = true → t.busy = false → s.unitTurn) ∧
    (s.unitTurn → t.busy = false) ∧
    (∀ w, s.pending = .cmd w → ¬ s.unitTurn → ¬ s.resetTurn → t.pending = .cmd w)

/-- R33, R35: CMDREJ and ACCERR are sticky: what sets them, and that only a W1C write of
their bit or a reset clears them. -/
def Obligations.StickyRejectionFlags : Prop :=
  ∀ s t : State, step s = next t →
    (∀ w, s.hostWrites 0x020#20 w → (s.busy = true ∨ s.err = true) → t.cmdrej = true) ∧
    (s.cmdrej = false → t.cmdrej = true → (∃ w, s.hostWrites 0x020#20 w) ∧ (s.busy = true ∨ s.err = true)) ∧
    (s.cmdrej = true → t.cmdrej = false → s.resetTurn ∨ ∃ x, s.hostWrites 0x024#20 x ∧ x.getLsbD 3 = true) ∧
    (s.accerr = false → t.accerr = true → s.busy = true ∧ ∃ a,
      ((∃ x, s.hostWrites a x) ∧ (a = 0x010#20 ∨ a = 0x014#20 ∨ a = 0x018#20 ∨ a = 0x01C#20)) ∨
      (((∃ x, s.hostWrites a x) ∨ s.hostReads a) ∧ 0x10000 ≤ a.toNat ∧ a.toNat ≤ 0x4FFFF)) ∧
    (s.accerr = true → t.accerr = false → s.resetTurn ∨ ∃ x, s.hostWrites 0x024#20 x ∧ x.getLsbD 5 = true)

/-- R28, R31, R32, R36, R37, R38: who writes CMD_LAST, DONE, ERR, CTRL, ITERS and ERRINFO. -/
def Obligations.WritersOfTheControlRegisters : Prop :=
  ∀ s t : State, step s = next t → ¬ s.resetTurn →
    (t.cmdLast ≠ s.cmdLast → s.hostWrites 0x020#20 t.cmdLast ∧ s.busy = false ∧ s.err = false) ∧
    (s.done = false → t.done = true → s.completionTurn) ∧
    (s.done = true → t.done = false → (∃ w, s.hostWrites 0x020#20 w ∧ s.busy = false ∧ s.err = false) ∨
      ∃ x, s.hostWrites 0x024#20 x ∧ x.getLsbD 1 = true) ∧
    (s.err = false → t.err = true → s.completionTurn) ∧
    (s.err = true → t.err = false → ∃ x, s.hostWrites 0x024#20 x ∧ x.getLsbD 2 = true) ∧
    (t.ieDone ≠ s.ieDone ∨ t.ieErr ≠ s.ieErr → ∃ x, s.hostWrites 0x028#20 x) ∧
    (t.iters ≠ s.iters → s.completionTurn ∧ ∃ w c, s.pending = .cmd w ∧ decode w = .term c ∧ isInv2k c) ∧
    (t.errinfo ≠ s.errinfo → s.completionTurn ∧ s.pending = .cmd t.errinfo ∧ t.err = true)

/-- R40, R76: while a command is in flight nothing but a reset changes what its result is a
function of: the word, the CFG registers, the polynomial registers. -/
def Obligations.InFlightOperandsAreFrozen : Prop :=
  ∀ (s t : State) (w : Word), s.pending = .cmd w → step s = next t → ¬ s.unitTurn → ¬ s.resetTurn →
    t.pending = .cmd w ∧ t.v = s.v ∧ t.cfgN = s.cfgN ∧ t.cfgP = s.cfgP ∧ t.cfgQ = s.cfgQ ∧
    t.cfgM = s.cfgM ∧ t.params = s.params

/-- The invariant of every state of a run (State.Inv) is kept by every step, from every state
that meets it. -/
def Obligations.StepKeepsTheStateInvariant : Prop :=
  ∀ s t : State, s.Inv → step s = next t → t.Inv

/-- The invariant holds right after a reset of every part with a legal NMAX. -/
def Obligations.ResetMeetsTheStateInvariant : Prop :=
  ∀ p : Params, p.ok → (State.resetWith p).Inv
end

