-- ==== Sys2Proof/Laws/State.lean ====
section
/-! SUPPORT. One lemma per field of State per named update, true by rfl, so that no later
proof unfolds a record update. -/

namespace Sys2Proof.Machine

/-! ### setPoly -/

@[simp] theorem State.setPoly_v (s : State) (r : VReg) (p : Poly) : (s.setPoly r p).v = s.v.setReg r p := rfl
@[simp] theorem State.setPoly_cfgN (s : State) (r : VReg) (p : Poly) : (s.setPoly r p).cfgN = s.cfgN := rfl
@[simp] theorem State.setPoly_cfgP (s : State) (r : VReg) (p : Poly) : (s.setPoly r p).cfgP = s.cfgP := rfl
@[simp] theorem State.setPoly_cfgQ (s : State) (r : VReg) (p : Poly) : (s.setPoly r p).cfgQ = s.cfgQ := rfl
@[simp] theorem State.setPoly_cfgM (s : State) (r : VReg) (p : Poly) : (s.setPoly r p).cfgM = s.cfgM := rfl
@[simp] theorem State.setPoly_cmdLast (s : State) (r : VReg) (p : Poly) : (s.setPoly r p).cmdLast = s.cmdLast := rfl
@[simp] theorem State.setPoly_done (s : State) (r : VReg) (p : Poly) : (s.setPoly r p).done = s.done := rfl
@[simp] theorem State.setPoly_err (s : State) (r : VReg) (p : Poly) : (s.setPoly r p).err = s.err := rfl
@[simp] theorem State.setPoly_cmdrej (s : State) (r : VReg) (p : Poly) : (s.setPoly r p).cmdrej = s.cmdrej := rfl
@[simp] theorem State.setPoly_accerr (s : State) (r : VReg) (p : Poly) : (s.setPoly r p).accerr = s.accerr := rfl
@[simp] theorem State.setPoly_errcode (s : State) (r : VReg) (p : Poly) : (s.setPoly r p).errcode = s.errcode := rfl
@[simp] theorem State.setPoly_ieDone (s : State) (r : VReg) (p : Poly) : (s.setPoly r p).ieDone = s.ieDone := rfl
@[simp] theorem State.setPoly_ieErr (s : State) (r : VReg) (p : Poly) : (s.setPoly r p).ieErr = s.ieErr := rfl
@[simp] theorem State.setPoly_iters (s : State) (r : VReg) (p : Poly) : (s.setPoly r p).iters = s.iters := rfl
@[simp] theorem State.setPoly_errinfo (s : State) (r : VReg) (p : Poly) : (s.setPoly r p).errinfo = s.errinfo := rfl
@[simp] theorem State.setPoly_pending (s : State) (r : VReg) (p : Poly) : (s.setPoly r p).pending = s.pending := rfl
@[simp] theorem State.setPoly_params (s : State) (r : VReg) (p : Poly) : (s.setPoly r p).params = s.params := rfl
@[simp] theorem State.setPoly_rstN (s : State) (r : VReg) (p : Poly) : (s.setPoly r p).rstN = s.rstN := rfl
@[simp] theorem State.setPoly_inputs (s : State) (r : VReg) (p : Poly) : (s.setPoly r p).inputs = s.inputs := rfl
@[simp] theorem State.setPoly_bus (s : State) (r : VReg) (p : Poly) : (s.setPoly r p).bus = s.bus := rfl

/-! ### setSlot -/

@[simp] theorem State.setSlot_v (s : State) (r : VReg) (i : Nat) (c : Coeff) : (s.setSlot r i c).v = s.v.setReg r (Poly.set (s.v.reg r) i c) := rfl
@[simp] theorem State.setSlot_cfgN (s : State) (r : VReg) (i : Nat) (c : Coeff) : (s.setSlot r i c).cfgN = s.cfgN := rfl
@[simp] theorem State.setSlot_cfgP (s : State) (r : VReg) (i : Nat) (c : Coeff) : (s.setSlot r i c).cfgP = s.cfgP := rfl
@[simp] theorem State.setSlot_cfgQ (s : State) (r : VReg) (i : Nat) (c : Coeff) : (s.setSlot r i c).cfgQ = s.cfgQ := rfl
@[simp] theorem State.setSlot_cfgM (s : State) (r : VReg) (i : Nat) (c : Coeff) : (s.setSlot r i c).cfgM = s.cfgM := rfl
@[simp] theorem State.setSlot_cmdLast (s : State) (r : VReg) (i : Nat) (c : Coeff) : (s.setSlot r i c).cmdLast = s.cmdLast := rfl
@[simp] theorem State.setSlot_done (s : State) (r : VReg) (i : Nat) (c : Coeff) : (s.setSlot r i c).done = s.done := rfl
@[simp] theorem State.setSlot_err (s : State) (r : VReg) (i : Nat) (c : Coeff) : (s.setSlot r i c).err = s.err := rfl
@[simp] theorem State.setSlot_cmdrej (s : State) (r : VReg) (i : Nat) (c : Coeff) : (s.setSlot r i c).cmdrej = s.cmdrej := rfl
@[simp] theorem State.setSlot_accerr (s : State) (r : VReg) (i : Nat) (c : Coeff) : (s.setSlot r i c).accerr = s.accerr := rfl
@[simp] theorem State.setSlot_errcode (s : State) (r : VReg) (i : Nat) (c : Coeff) : (s.setSlot r i c).errcode = s.errcode := rfl
@[simp] theorem State.setSlot_ieDone (s : State) (r : VReg) (i : Nat) (c : Coeff) : (s.setSlot r i c).ieDone = s.ieDone := rfl
@[simp] theorem State.setSlot_ieErr (s : State) (r : VReg) (i : Nat) (c : Coeff) : (s.setSlot r i c).ieErr = s.ieErr := rfl
@[simp] theorem State.setSlot_iters (s : State) (r : VReg) (i : Nat) (c : Coeff) : (s.setSlot r i c).iters = s.iters := rfl
@[simp] theorem State.setSlot_errinfo (s : State) (r : VReg) (i : Nat) (c : Coeff) : (s.setSlot r i c).errinfo = s.errinfo := rfl
@[simp] theorem State.setSlot_pending (s : State) (r : VReg) (i : Nat) (c : Coeff) : (s.setSlot r i c).pending = s.pending := rfl
@[simp] theorem State.setSlot_params (s : State) (r : VReg) (i : Nat) (c : Coeff) : (s.setSlot r i c).params = s.params := rfl
@[simp] theorem State.setSlot_rstN (s : State) (r : VReg) (i : Nat) (c : Coeff) : (s.setSlot r i c).rstN = s.rstN := rfl
@[simp] theorem State.setSlot_inputs (s : State) (r : VReg) (i : Nat) (c : Coeff) : (s.setSlot r i c).inputs = s.inputs := rfl
@[simp] theorem State.setSlot_bus (s : State) (r : VReg) (i : Nat) (c : Coeff) : (s.setSlot r i c).bus = s.bus := rfl

/-! ### writeBack -/

@[simp] theorem writeBack_v (vd : VReg) (res : List Int) (s : State) : (writeBack vd res s).v = s.v.setReg vd (Poly.ofList 0 res) := rfl
@[simp] theorem writeBack_cfgN (vd : VReg) (res : List Int) (s : State) : (writeBack vd res s).cfgN = s.cfgN := rfl
@[simp] theorem writeBack_cfgP (vd : VReg) (res : List Int) (s : State) : (writeBack vd res s).cfgP = s.cfgP := rfl
@[simp] theorem writeBack_cfgQ (vd : VReg) (res : List Int) (s : State) : (writeBack vd res s).cfgQ = s.cfgQ := rfl
@[simp] theorem writeBack_cfgM (vd : VReg) (res : List Int) (s : State) : (writeBack vd res s).cfgM = s.cfgM := rfl
@[simp] theorem writeBack_cmdLast (vd : VReg) (res : List Int) (s : State) : (writeBack vd res s).cmdLast = s.cmdLast := rfl
@[simp] theorem writeBack_done (vd : VReg) (res : List Int) (s : State) : (writeBack vd res s).done = s.done := rfl
@[simp] theorem writeBack_err (vd : VReg) (res : List Int) (s : State) : (writeBack vd res s).err = s.err := rfl
@[simp] theorem writeBack_cmdrej (vd : VReg) (res : List Int) (s : State) : (writeBack vd res s).cmdrej = s.cmdrej := rfl
@[simp] theorem writeBack_accerr (vd : VReg) (res : List Int) (s : State) : (writeBack vd res s).accerr = s.accerr := rfl
@[simp] theorem writeBack_errcode (vd : VReg) (res : List Int) (s : State) : (writeBack vd res s).errcode = s.errcode := rfl
@[simp] theorem writeBack_ieDone (vd : VReg) (res : List Int) (s : State) : (writeBack vd res s).ieDone = s.ieDone := rfl
@[simp] theorem writeBack_ieErr (vd : VReg) (res : List Int) (s : State) : (writeBack vd res s).ieErr = s.ieErr := rfl
@[simp] theorem writeBack_iters (vd : VReg) (res : List Int) (s : State) : (writeBack vd res s).iters = s.iters := rfl
@[simp] theorem writeBack_errinfo (vd : VReg) (res : List Int) (s : State) : (writeBack vd res s).errinfo = s.errinfo := rfl
@[simp] theorem writeBack_pending (vd : VReg) (res : List Int) (s : State) : (writeBack vd res s).pending = s.pending := rfl
@[simp] theorem writeBack_params (vd : VReg) (res : List Int) (s : State) : (writeBack vd res s).params = s.params := rfl
@[simp] theorem writeBack_rstN (vd : VReg) (res : List Int) (s : State) : (writeBack vd res s).rstN = s.rstN := rfl
@[simp] theorem writeBack_inputs (vd : VReg) (res : List Int) (s : State) : (writeBack vd res s).inputs = s.inputs := rfl
@[simp] theorem writeBack_bus (vd : VReg) (res : List Int) (s : State) : (writeBack vd res s).bus = s.bus := rfl

/-! ### setIters -/

@[simp] theorem setIters_v (n : Nat) (s : State) : (setIters n s).v = s.v := rfl
@[simp] theorem setIters_cfgN (n : Nat) (s : State) : (setIters n s).cfgN = s.cfgN := rfl
@[simp] theorem setIters_cfgP (n : Nat) (s : State) : (setIters n s).cfgP = s.cfgP := rfl
@[simp] theorem setIters_cfgQ (n : Nat) (s : State) : (setIters n s).cfgQ = s.cfgQ := rfl
@[simp] theorem setIters_cfgM (n : Nat) (s : State) : (setIters n s).cfgM = s.cfgM := rfl
@[simp] theorem setIters_cmdLast (n : Nat) (s : State) : (setIters n s).cmdLast = s.cmdLast := rfl
@[simp] theorem setIters_done (n : Nat) (s : State) : (setIters n s).done = s.done := rfl
@[simp] theorem setIters_err (n : Nat) (s : State) : (setIters n s).err = s.err := rfl
@[simp] theorem setIters_cmdrej (n : Nat) (s : State) : (setIters n s).cmdrej = s.cmdrej := rfl
@[simp] theorem setIters_accerr (n : Nat) (s : State) : (setIters n s).accerr = s.accerr := rfl
@[simp] theorem setIters_errcode (n : Nat) (s : State) : (setIters n s).errcode = s.errcode := rfl
@[simp] theorem setIters_ieDone (n : Nat) (s : State) : (setIters n s).ieDone = s.ieDone := rfl
@[simp] theorem setIters_ieErr (n : Nat) (s : State) : (setIters n s).ieErr = s.ieErr := rfl
@[simp] theorem setIters_iters (n : Nat) (s : State) : (setIters n s).iters = BitVec.ofNat 32 n := rfl
@[simp] theorem setIters_errinfo (n : Nat) (s : State) : (setIters n s).errinfo = s.errinfo := rfl
@[simp] theorem setIters_pending (n : Nat) (s : State) : (setIters n s).pending = s.pending := rfl
@[simp] theorem setIters_params (n : Nat) (s : State) : (setIters n s).params = s.params := rfl
@[simp] theorem setIters_rstN (n : Nat) (s : State) : (setIters n s).rstN = s.rstN := rfl
@[simp] theorem setIters_inputs (n : Nat) (s : State) : (setIters n s).inputs = s.inputs := rfl
@[simp] theorem setIters_bus (n : Nat) (s : State) : (setIters n s).bus = s.bus := rfl

/-! ### completeOk -/

@[simp] theorem completeOk_v (s : State) : (completeOk s).v = s.v := rfl
@[simp] theorem completeOk_cfgN (s : State) : (completeOk s).cfgN = s.cfgN := rfl
@[simp] theorem completeOk_cfgP (s : State) : (completeOk s).cfgP = s.cfgP := rfl
@[simp] theorem completeOk_cfgQ (s : State) : (completeOk s).cfgQ = s.cfgQ := rfl
@[simp] theorem completeOk_cfgM (s : State) : (completeOk s).cfgM = s.cfgM := rfl
@[simp] theorem completeOk_cmdLast (s : State) : (completeOk s).cmdLast = s.cmdLast := rfl
@[simp] theorem completeOk_done (s : State) : (completeOk s).done = true := rfl
@[simp] theorem completeOk_err (s : State) : (completeOk s).err = s.err := rfl
@[simp] theorem completeOk_cmdrej (s : State) : (completeOk s).cmdrej = s.cmdrej := rfl
@[simp] theorem completeOk_accerr (s : State) : (completeOk s).accerr = s.accerr := rfl
@[simp] theorem completeOk_errcode (s : State) : (completeOk s).errcode = s.errcode := rfl
@[simp] theorem completeOk_ieDone (s : State) : (completeOk s).ieDone = s.ieDone := rfl
@[simp] theorem completeOk_ieErr (s : State) : (completeOk s).ieErr = s.ieErr := rfl
@[simp] theorem completeOk_iters (s : State) : (completeOk s).iters = s.iters := rfl
@[simp] theorem completeOk_errinfo (s : State) : (completeOk s).errinfo = s.errinfo := rfl
@[simp] theorem completeOk_pending (s : State) : (completeOk s).pending = .none := rfl
@[simp] theorem completeOk_params (s : State) : (completeOk s).params = s.params := rfl
@[simp] theorem completeOk_rstN (s : State) : (completeOk s).rstN = s.rstN := rfl
@[simp] theorem completeOk_inputs (s : State) : (completeOk s).inputs = s.inputs := rfl
@[simp] theorem completeOk_bus (s : State) : (completeOk s).bus = s.bus := rfl

/-! ### raiseError -/

@[simp] theorem raiseError_v (e : ErrCode) (s : State) : (raiseError e s).v = s.v := rfl
@[simp] theorem raiseError_cfgN (e : ErrCode) (s : State) : (raiseError e s).cfgN = s.cfgN := rfl
@[simp] theorem raiseError_cfgP (e : ErrCode) (s : State) : (raiseError e s).cfgP = s.cfgP := rfl
@[simp] theorem raiseError_cfgQ (e : ErrCode) (s : State) : (raiseError e s).cfgQ = s.cfgQ := rfl
@[simp] theorem raiseError_cfgM (e : ErrCode) (s : State) : (raiseError e s).cfgM = s.cfgM := rfl
@[simp] theorem raiseError_cmdLast (e : ErrCode) (s : State) : (raiseError e s).cmdLast = s.cmdLast := rfl
@[simp] theorem raiseError_done (e : ErrCode) (s : State) : (raiseError e s).done = s.done := rfl
@[simp] theorem raiseError_err (e : ErrCode) (s : State) : (raiseError e s).err = true := rfl
@[simp] theorem raiseError_cmdrej (e : ErrCode) (s : State) : (raiseError e s).cmdrej = s.cmdrej := rfl
@[simp] theorem raiseError_accerr (e : ErrCode) (s : State) : (raiseError e s).accerr = s.accerr := rfl
@[simp] theorem raiseError_errcode (e : ErrCode) (s : State) : (raiseError e s).errcode = codeOf e := rfl
@[simp] theorem raiseError_ieDone (e : ErrCode) (s : State) : (raiseError e s).ieDone = s.ieDone := rfl
@[simp] theorem raiseError_ieErr (e : ErrCode) (s : State) : (raiseError e s).ieErr = s.ieErr := rfl
@[simp] theorem raiseError_iters (e : ErrCode) (s : State) : (raiseError e s).iters = s.iters := rfl
@[simp] theorem raiseError_errinfo (e : ErrCode) (s : State) : (raiseError e s).errinfo = s.commandWord := rfl
@[simp] theorem raiseError_pending (e : ErrCode) (s : State) : (raiseError e s).pending = .none := rfl
@[simp] theorem raiseError_params (e : ErrCode) (s : State) : (raiseError e s).params = s.params := rfl
@[simp] theorem raiseError_rstN (e : ErrCode) (s : State) : (raiseError e s).rstN = s.rstN := rfl
@[simp] theorem raiseError_inputs (e : ErrCode) (s : State) : (raiseError e s).inputs = s.inputs := rfl
@[simp] theorem raiseError_bus (e : ErrCode) (s : State) : (raiseError e s).bus = s.bus := rfl

/-! ### clearError -/

@[simp] theorem clearError_v (s : State) : (clearError s).v = s.v := rfl
@[simp] theorem clearError_cfgN (s : State) : (clearError s).cfgN = s.cfgN := rfl
@[simp] theorem clearError_cfgP (s : State) : (clearError s).cfgP = s.cfgP := rfl
@[simp] theorem clearError_cfgQ (s : State) : (clearError s).cfgQ = s.cfgQ := rfl
@[simp] theorem clearError_cfgM (s : State) : (clearError s).cfgM = s.cfgM := rfl
@[simp] theorem clearError_cmdLast (s : State) : (clearError s).cmdLast = s.cmdLast := rfl
@[simp] theorem clearError_done (s : State) : (clearError s).done = s.done := rfl
@[simp] theorem clearError_err (s : State) : (clearError s).err = false := rfl
@[simp] theorem clearError_cmdrej (s : State) : (clearError s).cmdrej = s.cmdrej := rfl
@[simp] theorem clearError_accerr (s : State) : (clearError s).accerr = s.accerr := rfl
@[simp] theorem clearError_errcode (s : State) : (clearError s).errcode = 0#4 := rfl
@[simp] theorem clearError_ieDone (s : State) : (clearError s).ieDone = s.ieDone := rfl
@[simp] theorem clearError_ieErr (s : State) : (clearError s).ieErr = s.ieErr := rfl
@[simp] theorem clearError_iters (s : State) : (clearError s).iters = s.iters := rfl
@[simp] theorem clearError_errinfo (s : State) : (clearError s).errinfo = s.errinfo := rfl
@[simp] theorem clearError_pending (s : State) : (clearError s).pending = s.pending := rfl
@[simp] theorem clearError_params (s : State) : (clearError s).params = s.params := rfl
@[simp] theorem clearError_rstN (s : State) : (clearError s).rstN = s.rstN := rfl
@[simp] theorem clearError_inputs (s : State) : (clearError s).inputs = s.inputs := rfl
@[simp] theorem clearError_bus (s : State) : (clearError s).bus = s.bus := rfl

/-! ### acceptCmd -/

@[simp] theorem acceptCmd_v (w : Word) (s : State) : (acceptCmd w s).v = s.v := rfl
@[simp] theorem acceptCmd_cfgN (w : Word) (s : State) : (acceptCmd w s).cfgN = s.cfgN := rfl
@[simp] theorem acceptCmd_cfgP (w : Word) (s : State) : (acceptCmd w s).cfgP = s.cfgP := rfl
@[simp] theorem acceptCmd_cfgQ (w : Word) (s : State) : (acceptCmd w s).cfgQ = s.cfgQ := rfl
@[simp] theorem acceptCmd_cfgM (w : Word) (s : State) : (acceptCmd w s).cfgM = s.cfgM := rfl
@[simp] theorem acceptCmd_cmdLast (w : Word) (s : State) : (acceptCmd w s).cmdLast = w := rfl
@[simp] theorem acceptCmd_done (w : Word) (s : State) : (acceptCmd w s).done = false := rfl
@[simp] theorem acceptCmd_err (w : Word) (s : State) : (acceptCmd w s).err = s.err := rfl
@[simp] theorem acceptCmd_cmdrej (w : Word) (s : State) : (acceptCmd w s).cmdrej = s.cmdrej := rfl
@[simp] theorem acceptCmd_accerr (w : Word) (s : State) : (acceptCmd w s).accerr = s.accerr := rfl
@[simp] theorem acceptCmd_errcode (w : Word) (s : State) : (acceptCmd w s).errcode = s.errcode := rfl
@[simp] theorem acceptCmd_ieDone (w : Word) (s : State) : (acceptCmd w s).ieDone = s.ieDone := rfl
@[simp] theorem acceptCmd_ieErr (w : Word) (s : State) : (acceptCmd w s).ieErr = s.ieErr := rfl
@[simp] theorem acceptCmd_iters (w : Word) (s : State) : (acceptCmd w s).iters = s.iters := rfl
@[simp] theorem acceptCmd_errinfo (w : Word) (s : State) : (acceptCmd w s).errinfo = s.errinfo := rfl
@[simp] theorem acceptCmd_pending (w : Word) (s : State) : (acceptCmd w s).pending = .cmd w := rfl
@[simp] theorem acceptCmd_params (w : Word) (s : State) : (acceptCmd w s).params = s.params := rfl
@[simp] theorem acceptCmd_rstN (w : Word) (s : State) : (acceptCmd w s).rstN = s.rstN := rfl
@[simp] theorem acceptCmd_inputs (w : Word) (s : State) : (acceptCmd w s).inputs = s.inputs := rfl
@[simp] theorem acceptCmd_bus (w : Word) (s : State) : (acceptCmd w s).bus = s.bus := rfl

/-! ### rejectCmd -/

@[simp] theorem rejectCmd_v (s : State) : (rejectCmd s).v = s.v := rfl
@[simp] theorem rejectCmd_cfgN (s : State) : (rejectCmd s).cfgN = s.cfgN := rfl
@[simp] theorem rejectCmd_cfgP (s : State) : (rejectCmd s).cfgP = s.cfgP := rfl
@[simp] theorem rejectCmd_cfgQ (s : State) : (rejectCmd s).cfgQ = s.cfgQ := rfl
@[simp] theorem rejectCmd_cfgM (s : State) : (rejectCmd s).cfgM = s.cfgM := rfl
@[simp] theorem rejectCmd_cmdLast (s : State) : (rejectCmd s).cmdLast = s.cmdLast := rfl
@[simp] theorem rejectCmd_done (s : State) : (rejectCmd s).done = s.done := rfl
@[simp] theorem rejectCmd_err (s : State) : (rejectCmd s).err = s.err := rfl
@[simp] theorem rejectCmd_cmdrej (s : State) : (rejectCmd s).cmdrej = true := rfl
@[simp] theorem rejectCmd_accerr (s : State) : (rejectCmd s).accerr = s.accerr := rfl
@[simp] theorem rejectCmd_errcode (s : State) : (rejectCmd s).errcode = s.errcode := rfl
@[simp] theorem rejectCmd_ieDone (s : State) : (rejectCmd s).ieDone = s.ieDone := rfl
@[simp] theorem rejectCmd_ieErr (s : State) : (rejectCmd s).ieErr = s.ieErr := rfl
@[simp] theorem rejectCmd_iters (s : State) : (rejectCmd s).iters = s.iters := rfl
@[simp] theorem rejectCmd_errinfo (s : State) : (rejectCmd s).errinfo = s.errinfo := rfl
@[simp] theorem rejectCmd_pending (s : State) : (rejectCmd s).pending = s.pending := rfl
@[simp] theorem rejectCmd_params (s : State) : (rejectCmd s).params = s.params := rfl
@[simp] theorem rejectCmd_rstN (s : State) : (rejectCmd s).rstN = s.rstN := rfl
@[simp] theorem rejectCmd_inputs (s : State) : (rejectCmd s).inputs = s.inputs := rfl
@[simp] theorem rejectCmd_bus (s : State) : (rejectCmd s).bus = s.bus := rfl

/-! ### dropAccess -/

@[simp] theorem dropAccess_v (s : State) : (dropAccess s).v = s.v := rfl
@[simp] theorem dropAccess_cfgN (s : State) : (dropAccess s).cfgN = s.cfgN := rfl
@[simp] theorem dropAccess_cfgP (s : State) : (dropAccess s).cfgP = s.cfgP := rfl
@[simp] theorem dropAccess_cfgQ (s : State) : (dropAccess s).cfgQ = s.cfgQ := rfl
@[simp] theorem dropAccess_cfgM (s : State) : (dropAccess s).cfgM = s.cfgM := rfl
@[simp] theorem dropAccess_cmdLast (s : State) : (dropAccess s).cmdLast = s.cmdLast := rfl
@[simp] theorem dropAccess_done (s : State) : (dropAccess s).done = s.done := rfl
@[simp] theorem dropAccess_err (s : State) : (dropAccess s).err = s.err := rfl
@[simp] theorem dropAccess_cmdrej (s : State) : (dropAccess s).cmdrej = s.cmdrej := rfl
@[simp] theorem dropAccess_accerr (s : State) : (dropAccess s).accerr = true := rfl
@[simp] theorem dropAccess_errcode (s : State) : (dropAccess s).errcode = s.errcode := rfl
@[simp] theorem dropAccess_ieDone (s : State) : (dropAccess s).ieDone = s.ieDone := rfl
@[simp] theorem dropAccess_ieErr (s : State) : (dropAccess s).ieErr = s.ieErr := rfl
@[simp] theorem dropAccess_iters (s : State) : (dropAccess s).iters = s.iters := rfl
@[simp] theorem dropAccess_errinfo (s : State) : (dropAccess s).errinfo = s.errinfo := rfl
@[simp] theorem dropAccess_pending (s : State) : (dropAccess s).pending = s.pending := rfl
@[simp] theorem dropAccess_params (s : State) : (dropAccess s).params = s.params := rfl
@[simp] theorem dropAccess_rstN (s : State) : (dropAccess s).rstN = s.rstN := rfl
@[simp] theorem dropAccess_inputs (s : State) : (dropAccess s).inputs = s.inputs := rfl
@[simp] theorem dropAccess_bus (s : State) : (dropAccess s).bus = s.bus := rfl

/-! ### initDone -/

@[simp] theorem initDone_v (s : State) : (initDone s).v = s.v := rfl
@[simp] theorem initDone_cfgN (s : State) : (initDone s).cfgN = s.cfgN := rfl
@[simp] theorem initDone_cfgP (s : State) : (initDone s).cfgP = s.cfgP := rfl
@[simp] theorem initDone_cfgQ (s : State) : (initDone s).cfgQ = s.cfgQ := rfl
@[simp] theorem initDone_cfgM (s : State) : (initDone s).cfgM = s.cfgM := rfl
@[simp] theorem initDone_cmdLast (s : State) : (initDone s).cmdLast = s.cmdLast := rfl
@[simp] theorem initDone_done (s : State) : (initDone s).done = s.done := rfl
@[simp] theorem initDone_err (s : State) : (initDone s).err = s.err := rfl
@[simp] theorem initDone_cmdrej (s : State) : (initDone s).cmdrej = s.cmdrej := rfl
@[simp] theorem initDone_accerr (s : State) : (initDone s).accerr = s.accerr := rfl
@[simp] theorem initDone_errcode (s : State) : (initDone s).errcode = s.errcode := rfl
@[simp] theorem initDone_ieDone (s : State) : (initDone s).ieDone = s.ieDone := rfl
@[simp] theorem initDone_ieErr (s : State) : (initDone s).ieErr = s.ieErr := rfl
@[simp] theorem initDone_iters (s : State) : (initDone s).iters = s.iters := rfl
@[simp] theorem initDone_errinfo (s : State) : (initDone s).errinfo = s.errinfo := rfl
@[simp] theorem initDone_pending (s : State) : (initDone s).pending = .none := rfl
@[simp] theorem initDone_params (s : State) : (initDone s).params = s.params := rfl
@[simp] theorem initDone_rstN (s : State) : (initDone s).rstN = s.rstN := rfl
@[simp] theorem initDone_inputs (s : State) : (initDone s).inputs = s.inputs := rfl
@[simp] theorem initDone_bus (s : State) : (initDone s).bus = s.bus := rfl

/-! ### resetStep -/

@[simp] theorem resetStep_v (s : State) : (resetStep s).v = Vector.replicate 8 [] := rfl
@[simp] theorem resetStep_cfgN (s : State) : (resetStep s).cfgN = 20#32 := rfl
@[simp] theorem resetStep_cfgP (s : State) : (resetStep s).cfgP = 7#32 := rfl
@[simp] theorem resetStep_cfgQ (s : State) : (resetStep s).cfgQ = 0x00100000#32 := rfl
@[simp] theorem resetStep_cfgM (s : State) : (resetStep s).cfgM = 0#32 := rfl
@[simp] theorem resetStep_cmdLast (s : State) : (resetStep s).cmdLast = 0#32 := rfl
@[simp] theorem resetStep_done (s : State) : (resetStep s).done = false := rfl
@[simp] theorem resetStep_err (s : State) : (resetStep s).err = false := rfl
@[simp] theorem resetStep_cmdrej (s : State) : (resetStep s).cmdrej = false := rfl
@[simp] theorem resetStep_accerr (s : State) : (resetStep s).accerr = false := rfl
@[simp] theorem resetStep_errcode (s : State) : (resetStep s).errcode = 0#4 := rfl
@[simp] theorem resetStep_ieDone (s : State) : (resetStep s).ieDone = false := rfl
@[simp] theorem resetStep_ieErr (s : State) : (resetStep s).ieErr = false := rfl
@[simp] theorem resetStep_iters (s : State) : (resetStep s).iters = 0#32 := rfl
@[simp] theorem resetStep_errinfo (s : State) : (resetStep s).errinfo = 0#32 := rfl
@[simp] theorem resetStep_pending (s : State) : (resetStep s).pending = .init := rfl
@[simp] theorem resetStep_params (s : State) : (resetStep s).params = s.params := rfl
@[simp] theorem resetStep_rstN (s : State) : (resetStep s).rstN = s.rstN := rfl
@[simp] theorem resetStep_inputs (s : State) : (resetStep s).inputs = s.inputs := rfl
@[simp] theorem resetStep_bus (s : State) : (resetStep s).bus = s.bus := rfl

/-! ### setCfgN -/

@[simp] theorem setCfgN_v (x : Word) (s : State) : (setCfgN x s).v = s.v := rfl
@[simp] theorem setCfgN_cfgN (x : Word) (s : State) : (setCfgN x s).cfgN = x := rfl
@[simp] theorem setCfgN_cfgP (x : Word) (s : State) : (setCfgN x s).cfgP = s.cfgP := rfl
@[simp] theorem setCfgN_cfgQ (x : Word) (s : State) : (setCfgN x s).cfgQ = s.cfgQ := rfl
@[simp] theorem setCfgN_cfgM (x : Word) (s : State) : (setCfgN x s).cfgM = s.cfgM := rfl
@[simp] theorem setCfgN_cmdLast (x : Word) (s : State) : (setCfgN x s).cmdLast = s.cmdLast := rfl
@[simp] theorem setCfgN_done (x : Word) (s : State) : (setCfgN x s).done = s.done := rfl
@[simp] theorem setCfgN_err (x : Word) (s : State) : (setCfgN x s).err = s.err := rfl
@[simp] theorem setCfgN_cmdrej (x : Word) (s : State) : (setCfgN x s).cmdrej = s.cmdrej := rfl
@[simp] theorem setCfgN_accerr (x : Word) (s : State) : (setCfgN x s).accerr = s.accerr := rfl
@[simp] theorem setCfgN_errcode (x : Word) (s : State) : (setCfgN x s).errcode = s.errcode := rfl
@[simp] theorem setCfgN_ieDone (x : Word) (s : State) : (setCfgN x s).ieDone = s.ieDone := rfl
@[simp] theorem setCfgN_ieErr (x : Word) (s : State) : (setCfgN x s).ieErr = s.ieErr := rfl
@[simp] theorem setCfgN_iters (x : Word) (s : State) : (setCfgN x s).iters = s.iters := rfl
@[simp] theorem setCfgN_errinfo (x : Word) (s : State) : (setCfgN x s).errinfo = s.errinfo := rfl
@[simp] theorem setCfgN_pending (x : Word) (s : State) : (setCfgN x s).pending = s.pending := rfl
@[simp] theorem setCfgN_params (x : Word) (s : State) : (setCfgN x s).params = s.params := rfl
@[simp] theorem setCfgN_rstN (x : Word) (s : State) : (setCfgN x s).rstN = s.rstN := rfl
@[simp] theorem setCfgN_inputs (x : Word) (s : State) : (setCfgN x s).inputs = s.inputs := rfl
@[simp] theorem setCfgN_bus (x : Word) (s : State) : (setCfgN x s).bus = s.bus := rfl

/-! ### setCfgP -/

@[simp] theorem setCfgP_v (x : Word) (s : State) : (setCfgP x s).v = s.v := rfl
@[simp] theorem setCfgP_cfgN (x : Word) (s : State) : (setCfgP x s).cfgN = s.cfgN := rfl
@[simp] theorem setCfgP_cfgP (x : Word) (s : State) : (setCfgP x s).cfgP = x := rfl
@[simp] theorem setCfgP_cfgQ (x : Word) (s : State) : (setCfgP x s).cfgQ = s.cfgQ := rfl
@[simp] theorem setCfgP_cfgM (x : Word) (s : State) : (setCfgP x s).cfgM = s.cfgM := rfl
@[simp] theorem setCfgP_cmdLast (x : Word) (s : State) : (setCfgP x s).cmdLast = s.cmdLast := rfl
@[simp] theorem setCfgP_done (x : Word) (s : State) : (setCfgP x s).done = s.done := rfl
@[simp] theorem setCfgP_err (x : Word) (s : State) : (setCfgP x s).err = s.err := rfl
@[simp] theorem setCfgP_cmdrej (x : Word) (s : State) : (setCfgP x s).cmdrej = s.cmdrej := rfl
@[simp] theorem setCfgP_accerr (x : Word) (s : State) : (setCfgP x s).accerr = s.accerr := rfl
@[simp] theorem setCfgP_errcode (x : Word) (s : State) : (setCfgP x s).errcode = s.errcode := rfl
@[simp] theorem setCfgP_ieDone (x : Word) (s : State) : (setCfgP x s).ieDone = s.ieDone := rfl
@[simp] theorem setCfgP_ieErr (x : Word) (s : State) : (setCfgP x s).ieErr = s.ieErr := rfl
@[simp] theorem setCfgP_iters (x : Word) (s : State) : (setCfgP x s).iters = s.iters := rfl
@[simp] theorem setCfgP_errinfo (x : Word) (s : State) : (setCfgP x s).errinfo = s.errinfo := rfl
@[simp] theorem setCfgP_pending (x : Word) (s : State) : (setCfgP x s).pending = s.pending := rfl
@[simp] theorem setCfgP_params (x : Word) (s : State) : (setCfgP x s).params = s.params := rfl
@[simp] theorem setCfgP_rstN (x : Word) (s : State) : (setCfgP x s).rstN = s.rstN := rfl
@[simp] theorem setCfgP_inputs (x : Word) (s : State) : (setCfgP x s).inputs = s.inputs := rfl
@[simp] theorem setCfgP_bus (x : Word) (s : State) : (setCfgP x s).bus = s.bus := rfl

/-! ### setCfgQ -/

@[simp] theorem setCfgQ_v (x : Word) (s : State) : (setCfgQ x s).v = s.v := rfl
@[simp] theorem setCfgQ_cfgN (x : Word) (s : State) : (setCfgQ x s).cfgN = s.cfgN := rfl
@[simp] theorem setCfgQ_cfgP (x : Word) (s : State) : (setCfgQ x s).cfgP = s.cfgP := rfl
@[simp] theorem setCfgQ_cfgQ (x : Word) (s : State) : (setCfgQ x s).cfgQ = x := rfl
@[simp] theorem setCfgQ_cfgM (x : Word) (s : State) : (setCfgQ x s).cfgM = s.cfgM := rfl
@[simp] theorem setCfgQ_cmdLast (x : Word) (s : State) : (setCfgQ x s).cmdLast = s.cmdLast := rfl
@[simp] theorem setCfgQ_done (x : Word) (s : State) : (setCfgQ x s).done = s.done := rfl
@[simp] theorem setCfgQ_err (x : Word) (s : State) : (setCfgQ x s).err = s.err := rfl
@[simp] theorem setCfgQ_cmdrej (x : Word) (s : State) : (setCfgQ x s).cmdrej = s.cmdrej := rfl
@[simp] theorem setCfgQ_accerr (x : Word) (s : State) : (setCfgQ x s).accerr = s.accerr := rfl
@[simp] theorem setCfgQ_errcode (x : Word) (s : State) : (setCfgQ x s).errcode = s.errcode := rfl
@[simp] theorem setCfgQ_ieDone (x : Word) (s : State) : (setCfgQ x s).ieDone = s.ieDone := rfl
@[simp] theorem setCfgQ_ieErr (x : Word) (s : State) : (setCfgQ x s).ieErr = s.ieErr := rfl
@[simp] theorem setCfgQ_iters (x : Word) (s : State) : (setCfgQ x s).iters = s.iters := rfl
@[simp] theorem setCfgQ_errinfo (x : Word) (s : State) : (setCfgQ x s).errinfo = s.errinfo := rfl
@[simp] theorem setCfgQ_pending (x : Word) (s : State) : (setCfgQ x s).pending = s.pending := rfl
@[simp] theorem setCfgQ_params (x : Word) (s : State) : (setCfgQ x s).params = s.params := rfl
@[simp] theorem setCfgQ_rstN (x : Word) (s : State) : (setCfgQ x s).rstN = s.rstN := rfl
@[simp] theorem setCfgQ_inputs (x : Word) (s : State) : (setCfgQ x s).inputs = s.inputs := rfl
@[simp] theorem setCfgQ_bus (x : Word) (s : State) : (setCfgQ x s).bus = s.bus := rfl

/-! ### setCfgM -/

@[simp] theorem setCfgM_v (x : Word) (s : State) : (setCfgM x s).v = s.v := rfl
@[simp] theorem setCfgM_cfgN (x : Word) (s : State) : (setCfgM x s).cfgN = s.cfgN := rfl
@[simp] theorem setCfgM_cfgP (x : Word) (s : State) : (setCfgM x s).cfgP = s.cfgP := rfl
@[simp] theorem setCfgM_cfgQ (x : Word) (s : State) : (setCfgM x s).cfgQ = s.cfgQ := rfl
@[simp] theorem setCfgM_cfgM (x : Word) (s : State) : (setCfgM x s).cfgM = x := rfl
@[simp] theorem setCfgM_cmdLast (x : Word) (s : State) : (setCfgM x s).cmdLast = s.cmdLast := rfl
@[simp] theorem setCfgM_done (x : Word) (s : State) : (setCfgM x s).done = s.done := rfl
@[simp] theorem setCfgM_err (x : Word) (s : State) : (setCfgM x s).err = s.err := rfl
@[simp] theorem setCfgM_cmdrej (x : Word) (s : State) : (setCfgM x s).cmdrej = s.cmdrej := rfl
@[simp] theorem setCfgM_accerr (x : Word) (s : State) : (setCfgM x s).accerr = s.accerr := rfl
@[simp] theorem setCfgM_errcode (x : Word) (s : State) : (setCfgM x s).errcode = s.errcode := rfl
@[simp] theorem setCfgM_ieDone (x : Word) (s : State) : (setCfgM x s).ieDone = s.ieDone := rfl
@[simp] theorem setCfgM_ieErr (x : Word) (s : State) : (setCfgM x s).ieErr = s.ieErr := rfl
@[simp] theorem setCfgM_iters (x : Word) (s : State) : (setCfgM x s).iters = s.iters := rfl
@[simp] theorem setCfgM_errinfo (x : Word) (s : State) : (setCfgM x s).errinfo = s.errinfo := rfl
@[simp] theorem setCfgM_pending (x : Word) (s : State) : (setCfgM x s).pending = s.pending := rfl
@[simp] theorem setCfgM_params (x : Word) (s : State) : (setCfgM x s).params = s.params := rfl
@[simp] theorem setCfgM_rstN (x : Word) (s : State) : (setCfgM x s).rstN = s.rstN := rfl
@[simp] theorem setCfgM_inputs (x : Word) (s : State) : (setCfgM x s).inputs = s.inputs := rfl
@[simp] theorem setCfgM_bus (x : Word) (s : State) : (setCfgM x s).bus = s.bus := rfl

/-! ### setEnables -/

@[simp] theorem setEnables_v (d e : Bool) (s : State) : (setEnables d e s).v = s.v := rfl
@[simp] theorem setEnables_cfgN (d e : Bool) (s : State) : (setEnables d e s).cfgN = s.cfgN := rfl
@[simp] theorem setEnables_cfgP (d e : Bool) (s : State) : (setEnables d e s).cfgP = s.cfgP := rfl
@[simp] theorem setEnables_cfgQ (d e : Bool) (s : State) : (setEnables d e s).cfgQ = s.cfgQ := rfl
@[simp] theorem setEnables_cfgM (d e : Bool) (s : State) : (setEnables d e s).cfgM = s.cfgM := rfl
@[simp] theorem setEnables_cmdLast (d e : Bool) (s : State) : (setEnables d e s).cmdLast = s.cmdLast := rfl
@[simp] theorem setEnables_done (d e : Bool) (s : State) : (setEnables d e s).done = s.done := rfl
@[simp] theorem setEnables_err (d e : Bool) (s : State) : (setEnables d e s).err = s.err := rfl
@[simp] theorem setEnables_cmdrej (d e : Bool) (s : State) : (setEnables d e s).cmdrej = s.cmdrej := rfl
@[simp] theorem setEnables_accerr (d e : Bool) (s : State) : (setEnables d e s).accerr = s.accerr := rfl
@[simp] theorem setEnables_errcode (d e : Bool) (s : State) : (setEnables d e s).errcode = s.errcode := rfl
@[simp] theorem setEnables_ieDone (d e : Bool) (s : State) : (setEnables d e s).ieDone = d := rfl
@[simp] theorem setEnables_ieErr (d e : Bool) (s : State) : (setEnables d e s).ieErr = e := rfl
@[simp] theorem setEnables_iters (d e : Bool) (s : State) : (setEnables d e s).iters = s.iters := rfl
@[simp] theorem setEnables_errinfo (d e : Bool) (s : State) : (setEnables d e s).errinfo = s.errinfo := rfl
@[simp] theorem setEnables_pending (d e : Bool) (s : State) : (setEnables d e s).pending = s.pending := rfl
@[simp] theorem setEnables_params (d e : Bool) (s : State) : (setEnables d e s).params = s.params := rfl
@[simp] theorem setEnables_rstN (d e : Bool) (s : State) : (setEnables d e s).rstN = s.rstN := rfl
@[simp] theorem setEnables_inputs (d e : Bool) (s : State) : (setEnables d e s).inputs = s.inputs := rfl
@[simp] theorem setEnables_bus (d e : Bool) (s : State) : (setEnables d e s).bus = s.bus := rfl

/-! ### setInputs -/

@[simp] theorem setInputs_v (rest : List Input) (s : State) : (setInputs rest s).v = s.v := rfl
@[simp] theorem setInputs_cfgN (rest : List Input) (s : State) : (setInputs rest s).cfgN = s.cfgN := rfl
@[simp] theorem setInputs_cfgP (rest : List Input) (s : State) : (setInputs rest s).cfgP = s.cfgP := rfl
@[simp] theorem setInputs_cfgQ (rest : List Input) (s : State) : (setInputs rest s).cfgQ = s.cfgQ := rfl
@[simp] theorem setInputs_cfgM (rest : List Input) (s : State) : (setInputs rest s).cfgM = s.cfgM := rfl
@[simp] theorem setInputs_cmdLast (rest : List Input) (s : State) : (setInputs rest s).cmdLast = s.cmdLast := rfl
@[simp] theorem setInputs_done (rest : List Input) (s : State) : (setInputs rest s).done = s.done := rfl
@[simp] theorem setInputs_err (rest : List Input) (s : State) : (setInputs rest s).err = s.err := rfl
@[simp] theorem setInputs_cmdrej (rest : List Input) (s : State) : (setInputs rest s).cmdrej = s.cmdrej := rfl
@[simp] theorem setInputs_accerr (rest : List Input) (s : State) : (setInputs rest s).accerr = s.accerr := rfl
@[simp] theorem setInputs_errcode (rest : List Input) (s : State) : (setInputs rest s).errcode = s.errcode := rfl
@[simp] theorem setInputs_ieDone (rest : List Input) (s : State) : (setInputs rest s).ieDone = s.ieDone := rfl
@[simp] theorem setInputs_ieErr (rest : List Input) (s : State) : (setInputs rest s).ieErr = s.ieErr := rfl
@[simp] theorem setInputs_iters (rest : List Input) (s : State) : (setInputs rest s).iters = s.iters := rfl
@[simp] theorem setInputs_errinfo (rest : List Input) (s : State) : (setInputs rest s).errinfo = s.errinfo := rfl
@[simp] theorem setInputs_pending (rest : List Input) (s : State) : (setInputs rest s).pending = s.pending := rfl
@[simp] theorem setInputs_params (rest : List Input) (s : State) : (setInputs rest s).params = s.params := rfl
@[simp] theorem setInputs_rstN (rest : List Input) (s : State) : (setInputs rest s).rstN = s.rstN := rfl
@[simp] theorem setInputs_inputs (rest : List Input) (s : State) : (setInputs rest s).inputs = rest := rfl
@[simp] theorem setInputs_bus (rest : List Input) (s : State) : (setInputs rest s).bus = s.bus := rfl

/-! ### setBus -/

@[simp] theorem setBus_v (a : Option BusAnswer) (s : State) : (setBus a s).v = s.v := rfl
@[simp] theorem setBus_cfgN (a : Option BusAnswer) (s : State) : (setBus a s).cfgN = s.cfgN := rfl
@[simp] theorem setBus_cfgP (a : Option BusAnswer) (s : State) : (setBus a s).cfgP = s.cfgP := rfl
@[simp] theorem setBus_cfgQ (a : Option BusAnswer) (s : State) : (setBus a s).cfgQ = s.cfgQ := rfl
@[simp] theorem setBus_cfgM (a : Option BusAnswer) (s : State) : (setBus a s).cfgM = s.cfgM := rfl
@[simp] theorem setBus_cmdLast (a : Option BusAnswer) (s : State) : (setBus a s).cmdLast = s.cmdLast := rfl
@[simp] theorem setBus_done (a : Option BusAnswer) (s : State) : (setBus a s).done = s.done := rfl
@[simp] theorem setBus_err (a : Option BusAnswer) (s : State) : (setBus a s).err = s.err := rfl
@[simp] theorem setBus_cmdrej (a : Option BusAnswer) (s : State) : (setBus a s).cmdrej = s.cmdrej := rfl
@[simp] theorem setBus_accerr (a : Option BusAnswer) (s : State) : (setBus a s).accerr = s.accerr := rfl
@[simp] theorem setBus_errcode (a : Option BusAnswer) (s : State) : (setBus a s).errcode = s.errcode := rfl
@[simp] theorem setBus_ieDone (a : Option BusAnswer) (s : State) : (setBus a s).ieDone = s.ieDone := rfl
@[simp] theorem setBus_ieErr (a : Option BusAnswer) (s : State) : (setBus a s).ieErr = s.ieErr := rfl
@[simp] theorem setBus_iters (a : Option BusAnswer) (s : State) : (setBus a s).iters = s.iters := rfl
@[simp] theorem setBus_errinfo (a : Option BusAnswer) (s : State) : (setBus a s).errinfo = s.errinfo := rfl
@[simp] theorem setBus_pending (a : Option BusAnswer) (s : State) : (setBus a s).pending = s.pending := rfl
@[simp] theorem setBus_params (a : Option BusAnswer) (s : State) : (setBus a s).params = s.params := rfl
@[simp] theorem setBus_rstN (a : Option BusAnswer) (s : State) : (setBus a s).rstN = s.rstN := rfl
@[simp] theorem setBus_inputs (a : Option BusAnswer) (s : State) : (setBus a s).inputs = s.inputs := rfl
@[simp] theorem setBus_bus (a : Option BusAnswer) (s : State) : (setBus a s).bus = a := rfl

/-! ### setPort -/

@[simp] theorem setPort_v (level : Bool) (s : State) : (setPort level s).v = s.v := rfl
@[simp] theorem setPort_cfgN (level : Bool) (s : State) : (setPort level s).cfgN = s.cfgN := rfl
@[simp] theorem setPort_cfgP (level : Bool) (s : State) : (setPort level s).cfgP = s.cfgP := rfl
@[simp] theorem setPort_cfgQ (level : Bool) (s : State) : (setPort level s).cfgQ = s.cfgQ := rfl
@[simp] theorem setPort_cfgM (level : Bool) (s : State) : (setPort level s).cfgM = s.cfgM := rfl
@[simp] theorem setPort_cmdLast (level : Bool) (s : State) : (setPort level s).cmdLast = s.cmdLast := rfl
@[simp] theorem setPort_done (level : Bool) (s : State) : (setPort level s).done = s.done := rfl
@[simp] theorem setPort_err (level : Bool) (s : State) : (setPort level s).err = s.err := rfl
@[simp] theorem setPort_cmdrej (level : Bool) (s : State) : (setPort level s).cmdrej = s.cmdrej := rfl
@[simp] theorem setPort_accerr (level : Bool) (s : State) : (setPort level s).accerr = s.accerr := rfl
@[simp] theorem setPort_errcode (level : Bool) (s : State) : (setPort level s).errcode = s.errcode := rfl
@[simp] theorem setPort_ieDone (level : Bool) (s : State) : (setPort level s).ieDone = s.ieDone := rfl
@[simp] theorem setPort_ieErr (level : Bool) (s : State) : (setPort level s).ieErr = s.ieErr := rfl
@[simp] theorem setPort_iters (level : Bool) (s : State) : (setPort level s).iters = s.iters := rfl
@[simp] theorem setPort_errinfo (level : Bool) (s : State) : (setPort level s).errinfo = s.errinfo := rfl
@[simp] theorem setPort_pending (level : Bool) (s : State) : (setPort level s).pending = s.pending := rfl
@[simp] theorem setPort_params (level : Bool) (s : State) : (setPort level s).params = s.params := rfl
@[simp] theorem setPort_rstN (level : Bool) (s : State) : (setPort level s).rstN = level := rfl
@[simp] theorem setPort_inputs (level : Bool) (s : State) : (setPort level s).inputs = s.inputs := rfl
@[simp] theorem setPort_bus (level : Bool) (s : State) : (setPort level s).bus = s.bus := rfl

end Sys2Proof.Machine
end

