-- ==== Sys2Proof/Laws/Memory.lean ====
section
/-! SUPPORT. The laws of the coefficient memory: read after write, every operation keeps the
canonical form, and canonical memories with equal slots are equal. -/

namespace Sys2Proof.Machine

/-! ### One register -/

@[simp] theorem Poly.get_nil (i : Nat) : Poly.get [] i = 0#64 := rfl

theorem Poly.wfFrom_cons {lo hi i : Nat} {c : Coeff} {rest : Poly} :
    Poly.wfFrom lo hi ((i, c) :: rest) = true ↔ lo ≤ i ∧ i < hi ∧ c ≠ 0#64 ∧ Poly.wfFrom (i + 1) hi rest = true := by
  simp [Poly.wfFrom, and_assoc]

/-- Lowering the lower bound keeps the form. -/
theorem Poly.wfFrom_mono {lo lo' hi : Nat} (h : lo' ≤ lo) {p : Poly} (hp : Poly.wfFrom lo hi p = true) :
    Poly.wfFrom lo' hi p = true := by
  cases p with
  | nil => rfl
  | cons e rest =>
    obtain ⟨i, c⟩ := e
    rw [Poly.wfFrom_cons] at hp ⊢
    exact ⟨by omega, hp.2⟩

/-- A canonical register holds 0 below its lower bound. -/
theorem Poly.get_below {lo hi i : Nat} {p : Poly} (hp : Poly.wfFrom lo hi p = true) (h : i < lo) :
    Poly.get p i = 0#64 := by
  induction p generalizing lo with
  | nil => rfl
  | cons e rest ih =>
    obtain ⟨j, c⟩ := e
    rw [Poly.wfFrom_cons] at hp
    rw [Poly.get, if_neg (by omega)]
    exact ih hp.2.2.2 (by omega)

/-- A canonical register holds 0 from its upper bound on. -/
theorem Poly.get_above {lo hi i : Nat} {p : Poly} (hp : Poly.wfFrom lo hi p = true) (h : hi ≤ i) :
    Poly.get p i = 0#64 := by
  induction p generalizing lo with
  | nil => rfl
  | cons e rest ih =>
    obtain ⟨j, c⟩ := e
    rw [Poly.wfFrom_cons] at hp
    rw [Poly.get, if_neg (by omega)]
    exact ih hp.2.2.2

/-- Reading the slot just written, in a canonical register. -/
theorem Poly.get_set_same {lo hi : Nat} {p : Poly} (hp : Poly.wfFrom lo hi p = true) (i : Nat) (c : Coeff) :
    Poly.get (Poly.set p i c) i = c := by
  induction p generalizing lo with
  | nil =>
    by_cases hc : c = 0#64 <;> simp [Poly.set, Poly.get, hc]
  | cons e rest ih =>
    obtain ⟨j, d⟩ := e
    rw [Poly.wfFrom_cons] at hp
    by_cases hlt : i < j
    · have hrest : Poly.get rest i = 0#64 := Poly.get_below hp.2.2.2 (by omega)
      by_cases hc : c = 0#64 <;> simp [Poly.set, Poly.get, hlt, hc, hrest, show j ≠ i by omega]
    · by_cases heq : i = j
      · have hrest : Poly.get rest i = 0#64 := Poly.get_below hp.2.2.2 (by omega)
        by_cases hc : c = 0#64
        · simpa [Poly.set, heq, hc] using heq ▸ hrest
        · simp [Poly.set, Poly.get, heq, hc]
      · simpa [Poly.set, Poly.get, hlt, heq, show j ≠ i by omega] using ih hp.2.2.2

/-- A write leaves every other slot alone, canonical or not. -/
theorem Poly.get_set_other {p : Poly} {i k : Nat} (c : Coeff) (h : k ≠ i) :
    Poly.get (Poly.set p i c) k = Poly.get p k := by
  induction p with
  | nil =>
    by_cases hc : c = 0#64 <;> simp [Poly.set, Poly.get, hc, h.symm]
  | cons e rest ih =>
    obtain ⟨j, d⟩ := e
    by_cases hlt : i < j
    · by_cases hc : c = 0#64 <;> simp [Poly.set, Poly.get, hlt, hc, h.symm]
    · by_cases heq : i = j
      · subst heq
        by_cases hc : c = 0#64 <;> simp [Poly.set, Poly.get, hc, h.symm]
      · simp [Poly.set, Poly.get, hlt, heq, ih]

/-- A write to a slot inside the bounds keeps the canonical form. -/
theorem Poly.wfFrom_set {lo hi : Nat} {p : Poly} (hp : Poly.wfFrom lo hi p = true) {i : Nat} (c : Coeff)
    (hlo : lo ≤ i) (hhi : i < hi) : Poly.wfFrom lo hi (Poly.set p i c) = true := by
  induction p generalizing lo with
  | nil =>
    by_cases hc : c = 0#64 <;> simp [Poly.set, Poly.wfFrom, hc, hlo, hhi]
  | cons e rest ih =>
    obtain ⟨j, d⟩ := e
    have hp' := hp
    rw [Poly.wfFrom_cons] at hp
    by_cases hlt : i < j
    · by_cases hc : c = 0#64
      · simpa [Poly.set, hlt, hc] using hp'
      · simp only [Poly.set, hlt, hc, if_true, if_false]
        exact Poly.wfFrom_cons.2 ⟨hlo, hhi, hc, Poly.wfFrom_cons.2 ⟨by omega, hp.2⟩⟩
    · by_cases heq : i = j
      · subst heq
        by_cases hc : c = 0#64
        · simpa [Poly.set, hc] using Poly.wfFrom_mono (by omega) hp.2.2.2
        · simp only [Poly.set, hc, if_true, if_false, lt_irrefl]
          exact Poly.wfFrom_cons.2 ⟨hlo, hhi, hc, hp.2.2.2⟩
      · simp only [Poly.set, hlt, heq, if_false]
        exact Poly.wfFrom_cons.2 ⟨hp.1, hp.2.1, hp.2.2.1, ih hp.2.2.2 (by omega)⟩

/-- What a register made from a list holds. -/
theorem Poly.get_ofList (res : List Int) (b k : Nat) :
    Poly.get (Poly.ofList b res) k =
      if b ≤ k then BitVec.ofInt 64 (res.getD (k - b) 0) else 0#64 := by
  induction res generalizing b with
  | nil => simp [Poly.ofList]
  | cons c cs ih =>
    have step : Poly.get (Poly.ofList b (c :: cs)) k =
        if b = k then BitVec.ofInt 64 c else Poly.get (Poly.ofList (b + 1) cs) k := by
      by_cases hc : BitVec.ofInt 64 c = 0#64
      · by_cases hb : b = k
        · simp only [Poly.ofList, hc, if_true, hb]
          rw [ih, if_neg (by omega)]
        · simp [Poly.ofList, hc, hb]
      · simp [Poly.ofList, hc, Poly.get]
    rw [step]
    by_cases hb : b = k
    · simp [hb]
    · rw [if_neg hb, ih]
      by_cases hle : b ≤ k
      · have : k - b = (k - (b + 1)) + 1 := by omega
        simp [hle, show b + 1 ≤ k by omega, this]
      · simp [hle, show ¬ b + 1 ≤ k by omega]

/-- A register made from a list is canonical. -/
theorem Poly.wfFrom_ofList {res : List Int} {b hi : Nat} (h : b + res.length ≤ hi) :
    Poly.wfFrom b hi (Poly.ofList b res) = true := by
  induction res generalizing b with
  | nil => rfl
  | cons c cs ih =>
    have hrest : Poly.wfFrom (b + 1) hi (Poly.ofList (b + 1) cs) = true := ih (by simp at h; omega)
    by_cases hc : BitVec.ofInt 64 c = 0#64
    · simpa [Poly.ofList, hc] using Poly.wfFrom_mono (by omega) hrest
    · simp only [Poly.ofList, hc, if_false]
      exact Poly.wfFrom_cons.2 ⟨le_refl b, by simp at h; omega, hc, hrest⟩

/-! ### The register file -/

theorem Memory.reg_set_same (m : Memory) (r : VReg) (p : Poly) :
    (m.setReg r p).reg r = p := by
  simp [Memory.reg, Memory.setReg]

theorem Memory.reg_set_other (m : Memory) {r q : VReg} (p : Poly) (h : q ≠ r) :
    (m.setReg r p).reg q = m.reg q := by
  have hv : r.val ≠ q.val := fun e => h (Fin.ext e.symm)
  simp [Memory.reg, Memory.setReg, hv]

/-- Replacing a register by a canonical one keeps the canonical form of the memory. -/
theorem Memory.wf_set {nmax : Nat} {m : Memory} (hm : Memory.wf nmax m) {r : VReg} {p : Poly}
    (hp : Poly.wfFrom 0 nmax p = true) : Memory.wf nmax (m.setReg r p) := by
  intro q
  by_cases h : q = r
  · subst h
    rw [Memory.reg_set_same]
    exact hp
  · rw [Memory.reg_set_other _ _ h]
    exact hm q

theorem Memory.reg_cleared (r : VReg) : Memory.reg (Vector.replicate 8 []) r = [] := by
  simp [Memory.reg]

/-- The memory right after reset is canonical (R42). -/
theorem Memory.wf_cleared (nmax : Nat) : Memory.wf nmax (Vector.replicate 8 []) := by
  intro r
  rw [Memory.reg_cleared]
  rfl

/-! ### The operations of State keep the form -/

theorem setSlot_wf {s : State} (h : Memory.wf s.params.nmax s.v) (r : VReg) {i : Nat} (c : Coeff)
    (hi : i < s.params.nmax) : Memory.wf s.params.nmax (s.setSlot r i c).v :=
  Memory.wf_set h (Poly.wfFrom_set (h r) c (Nat.zero_le i) hi)

theorem writeBack_wf {s : State} (h : Memory.wf s.params.nmax s.v) (vd : VReg) {res : List Int}
    (hlen : res.length ≤ s.params.nmax) : Memory.wf s.params.nmax (writeBack vd res s).v :=
  Memory.wf_set h (Poly.wfFrom_ofList (by simpa using hlen))

theorem resetStep_wf (s : State) : Memory.wf s.params.nmax (resetStep s).v :=
  Memory.wf_cleared _

/-! ### Slots of State -/

theorem slot_setSlot_same {s : State} {nmax : Nat} (h : Memory.wf nmax s.v) (r : VReg) (i : Nat) (c : Coeff) :
    (s.setSlot r i c).slot r i = c := by
  simp only [State.slot, State.setSlot_v, Memory.reg_set_same]
  exact Poly.get_set_same (h r) i c

theorem slot_setSlot_other (s : State) {r q : VReg} {i k : Nat} (c : Coeff) (h : q ≠ r ∨ k ≠ i) :
    (s.setSlot r i c).slot q k = s.slot q k := by
  simp only [State.slot, State.setSlot_v]
  by_cases hq : q = r
  · subst hq
    rw [Memory.reg_set_same]
    exact Poly.get_set_other c (by simpa using h)
  · rw [Memory.reg_set_other _ _ hq]

/-- What WriteBack leaves in every slot (R121). -/
theorem slot_writeBack (vd : VReg) (res : List Int) (s : State) (r : VReg) (k : Nat) :
    (writeBack vd res s).slot r k = if r = vd then BitVec.ofInt 64 (res.getD k 0) else s.slot r k := by
  simp only [State.slot, writeBack_v]
  by_cases h : r = vd
  · subst h
    rw [Memory.reg_set_same, Poly.get_ofList]
    simp
  · rw [Memory.reg_set_other _ _ h, if_neg h]

end Sys2Proof.Machine
end

