-- ==== Sys2Proof/Laws/Ops.lean ====
section
/-! SUPPORT. What each shared operation can do, said once: the prologue, the two ends of a
command, the meanings, the Unit, the Host, and the step. -/

namespace Sys2Proof.Machine

/-! ### BUSY -/

theorem busy_eq_true {s : State} : s.busy = true ↔ s.pending ≠ .none := by
  unfold State.busy
  cases s.pending <;> simp

theorem busy_eq_false {s : State} : s.busy = false ↔ s.pending = .none := by
  unfold State.busy
  cases s.pending <;> simp

/-- BUSY is a function of pending alone (R30). -/
theorem busy_congr {s t : State} (h : t.pending = s.pending) : t.busy = s.busy := by
  unfold State.busy
  rw [h]

/-! ### Lengths -/

@[simp] theorem length_src (s : State) (n : Nat) (r : VReg) : (src s n r).length = n := by simp [src]

@[simp] theorem length_constPoly (n : Nat) (c : Int) : (constPoly n c).length = n := by simp [constPoly]

@[simp] theorem length_onePoly (n : Nat) : (onePoly n).length = n := by simp [onePoly]

@[simp] theorem length_cycConv (n : Nat) (a b : List Int) : (cycConv n a b).length = n := by simp [cycConv]

@[simp] theorem length_balmodPoly (m : Nat) (a : List Int) : (balmodPoly m a).length = a.length := by
  simp [balmodPoly]

@[simp] theorem length_refine (n m : Nat) (a h : List Int) : (refine n m a h).length = n := by simp [refine]

@[simp] theorem length_foldCyclic (p n : Nat) (g : List Nat) : (foldCyclic p n g).length = n := by
  simp [foldCyclic]

/-- An inverse has exactly n coefficients. -/
theorem length_invModPrime {n p : Nat} {a h : List Int} (hi : invModPrime n p a = some h) : h.length = n := by
  simp only [invModPrime] at hi
  split at hi
  · cases hi
  · split at hi
    · cases hi
      simp
    · cases hi

/-- How the loop of R158 converges: its answer is the first iterate of the refinement that passes
the test, with its index. -/
theorem newtonLoop_converged {n m : Nat} {a : List Int} {left it j : Nat} {h g : List Int}
    (e : newtonLoop n m a left it h = .converged g j) :
    ∃ i, j = it + i ∧ g = (refine n m a)^[i] h ∧ isInverseMod n m a g = true ∧
      ∀ l < i, isInverseMod n m a ((refine n m a)^[l] h) = false := by
  induction left generalizing it h with
  | zero =>
    unfold newtonLoop at e
    split at e
    · cases e; exact ⟨0, rfl, rfl, ‹_›, nofun⟩
    · cases e
  | succ left ih =>
    unfold newtonLoop at e
    split at e
    · cases e; exact ⟨0, rfl, rfl, ‹_›, nofun⟩
    · obtain ⟨i, rfl, rfl, hi, hl⟩ := ih e
      refine ⟨i + 1, by omega, rfl, hi, fun l hlt => ?_⟩
      cases l with
      | zero => simp_all
      | succ l => exact hl l (by omega)

/-- The refinement loop keeps the length. -/
theorem length_newtonLoop {n m left it k : Nat} {a h g : List Int} (hlen : h.length = n)
    (hn : newtonLoop n m a left it h = .converged g k) : g.length = n := by
  induction left generalizing it h with
  | zero =>
    unfold newtonLoop at hn
    split at hn
    · cases hn; exact hlen
    · cases hn
  | succ left ih =>
    unfold newtonLoop at hn
    split at hn
    · cases hn; exact hlen
    · exact ih (length_refine ..) hn

/-- What a source operand holds in place k. -/
theorem getD_src (s : State) (n : Nat) (r : VReg) (k : Nat) :
    (src s n r).getD k 0 = if k < n then (s.slot r k).toInt else 0 := by
  by_cases h : k < n <;> simp [src, h]

/-! ### The prologue and the two ends of a command -/

theorem withLegalN_legal {s : State} (h : s.legalN) (body : Nat → Result) :
    withLegalN s body = body s.cfgN.toNat := by
  simp only [withLegalN, if_pos h]

theorem withLegalN_illegal {s : State} (h : ¬ s.legalN) (body : Nat → Result) :
    withLegalN s body = fail .badN s := by
  simp only [withLegalN, if_neg h]

/-- A command that passed its checks either commits or reports OVERFLOW. -/
theorem commitChecked_cases (vd : VReg) (res : List Int) (s : State) :
    (res.all fitsCW = true ∧ commitChecked vd res s = commit vd res s) ∨
    (res.all fitsCW = false ∧ commitChecked vd res s = fail .overflow s) := by
  by_cases h : res.all fitsCW = true
  · exact .inl ⟨h, by simp only [commitChecked, h, if_true]⟩
  · simp only [Bool.not_eq_true] at h
    exact .inr ⟨h, by simp [commitChecked, h]⟩

theorem fitsCW_iff (c : Int) : fitsCW c = true ↔ -2 ^ 63 ≤ c ∧ c ≤ 2 ^ 63 - 1 := by
  simp [fitsCW]

/-- An integer that fits is read back as it was stored (R10, R122). -/
theorem toInt_ofInt_of_fits {c : Int} (h : fitsCW c = true) : (BitVec.ofInt 64 c).toInt = c := by
  rw [fitsCW_iff] at h
  rw [BitVec.toInt_ofInt, Int.bmod_eq_of_le] <;> omega

/-! ### The meanings, one equation each (N legal) -/

section Meanings

variable {s : State} (hN : s.legalN)
include hN

theorem exec_conv (vd va vb : VReg) : exec (.conv vd va vb) s =
    commitChecked vd (cycConv s.cfgN.toNat (src s s.cfgN.toNat va) (src s s.cfgN.toNat vb)) s := by
  simp only [exec, execConv, withLegalN_legal hN]

theorem exec_add (vd va vb : VReg) : exec (.add vd va vb) s =
    commitChecked vd (List.zipWith (· + ·) (src s s.cfgN.toNat va) (src s s.cfgN.toNat vb)) s := by
  simp only [exec, execAdd, withLegalN_legal hN]

theorem exec_bmod (vd va : VReg) (ms : Ms) : exec (.bmod vd va ms) s =
    if modSel s ms = 0 then fail .badModulus s
    else commit vd ((src s s.cfgN.toNat va).map fun c => balmod c (modSel s ms)) s := by
  simp only [exec, execBmod, withLegalN_legal hN]

theorem exec_invp_badModulus {vd va : VReg} {ms : Ms} (hp : isPrime (modSel s ms) = false) :
    exec (.invp vd va ms) s = fail .badModulus s := by
  simp [exec, execInvp, withLegalN_legal hN, hp]

theorem exec_invp_none {vd va : VReg} {ms : Ms} (hp : isPrime (modSel s ms) = true)
    (hi : invModPrime s.cfgN.toNat (modSel s ms) (src s s.cfgN.toNat va) = none) :
    exec (.invp vd va ms) s = fail .notInvertible s := by
  simp [exec, execInvp, withLegalN_legal hN, hp, hi]

theorem exec_invp_some {vd va : VReg} {ms : Ms} {h : List Int} (hp : isPrime (modSel s ms) = true)
    (hi : invModPrime s.cfgN.toNat (modSel s ms) (src s s.cfgN.toNat va) = some h) :
    exec (.invp vd va ms) s = commit vd h s := by
  simp [exec, execInvp, withLegalN_legal hN, hp, hi]

theorem exec_inv2k_badModulus {vd va : VReg} {ms : Ms} (hk : pow2Exponent (modSel s ms) = none) :
    exec (.inv2k vd va ms) s = fail .badModulus s := by
  simp [exec, execInv2k, withLegalN_legal hN, hk]

theorem exec_inv2k_none {vd va : VReg} {ms : Ms} {k : Nat} (hk : pow2Exponent (modSel s ms) = some k)
    (hi : invModPrime s.cfgN.toNat 2 (src s s.cfgN.toNat va) = none) :
    exec (.inv2k vd va ms) s = fail .notInvertible (setIters 0 s) := by
  simp [exec, execInv2k, withLegalN_legal hN, hk, hi]

theorem exec_inv2k_capped {vd va : VReg} {ms : Ms} {k it : Nat} {h : List Int}
    (hk : pow2Exponent (modSel s ms) = some k)
    (hi : invModPrime s.cfgN.toNat 2 (src s s.cfgN.toNat va) = some h)
    (hl : newtonLoop s.cfgN.toNat (modSel s ms) (src s s.cfgN.toNat va) (iterationCap k) 0 h = .capped it) :
    exec (.inv2k vd va ms) s = fail .iterCap (setIters it s) := by
  simp [exec, execInv2k, withLegalN_legal hN, hk, hi, hl]

theorem exec_inv2k_converged {vd va : VReg} {ms : Ms} {k it : Nat} {h g : List Int}
    (hk : pow2Exponent (modSel s ms) = some k)
    (hi : invModPrime s.cfgN.toNat 2 (src s s.cfgN.toNat va) = some h)
    (hl : newtonLoop s.cfgN.toNat (modSel s ms) (src s s.cfgN.toNat va) (iterationCap k) 0 h = .converged g it) :
    exec (.inv2k vd va ms) s = commit vd g (setIters it s) := by
  simp [exec, execInv2k, withLegalN_legal hN, hk, hi, hl]

theorem exec_mov (vd va : VReg) : exec (.mov vd va) s = commit vd (src s s.cfgN.toNat va) s := by
  simp only [exec, execMov, withLegalN_legal hN]

theorem exec_ldc (vd : VReg) (imm : Int) : exec (.ldc vd imm) s = commit vd (constPoly s.cfgN.toNat imm) s := by
  simp only [exec, execLdc, withLegalN_legal hN]

end Meanings

/-- Every command ends in BAD_N where N is not legal (R205). -/
theorem exec_illegalN {s : State} (hN : ¬ s.legalN) (i : Instr) : exec i s = fail .badN s := by
  cases i
  case conv => simp only [exec, execConv, withLegalN_illegal hN]
  case add => simp only [exec, execAdd, withLegalN_illegal hN]
  case bmod => simp only [exec, execBmod, withLegalN_illegal hN]
  case invp => simp only [exec, execInvp, withLegalN_illegal hN]
  case inv2k => simp only [exec, execInv2k, withLegalN_illegal hN]
  case mov => simp only [exec, execMov, withLegalN_illegal hN]
  case ldc => simp only [exec, execLdc, withLegalN_illegal hN]

/-! ### What a command can do -/

/-- The state a command is answered from: s, with ITERS staged where the command is INV2K. -/
def Staged (i : Instr) (s u : State) : Prop :=
  u = s ∨ ∃ vd va ms n, i = .inv2k vd va ms ∧ u = setIters n s

/-- Everything a command can do: it ends in an error, or commits a polynomial of N
coefficients with N legal. -/
theorem exec_cases (i : Instr) (s : State) :
    ∃ u, Staged i s u ∧
      ((∃ e, exec i s = fail e u) ∨
       (s.legalN ∧ ∃ res : List Int, res.length = s.cfgN.toNat ∧ exec i s = commit i.dest res u)) := by
  by_cases hN : s.legalN
  swap
  · exact ⟨s, .inl rfl, .inl ⟨.badN, exec_illegalN hN i⟩⟩
  cases i with
  | conv vd va vb =>
    refine ⟨s, .inl rfl, ?_⟩
    rw [exec_conv hN]
    rcases commitChecked_cases vd (cycConv s.cfgN.toNat (src s s.cfgN.toNat va) (src s s.cfgN.toNat vb)) s with h | h
    · exact .inr ⟨hN, _, length_cycConv .., h.2⟩
    · exact .inl ⟨_, h.2⟩
  | add vd va vb =>
    refine ⟨s, .inl rfl, ?_⟩
    rw [exec_add hN]
    rcases commitChecked_cases vd
      (List.zipWith (· + ·) (src s s.cfgN.toNat va) (src s s.cfgN.toNat vb)) s with h | h
    · exact .inr ⟨hN, List.zipWith (· + ·) (src s s.cfgN.toNat va) (src s s.cfgN.toNat vb), by simp, h.2⟩
    · exact .inl ⟨_, h.2⟩
  | bmod vd va ms =>
    refine ⟨s, .inl rfl, ?_⟩
    rw [exec_bmod hN]
    by_cases hm : modSel s ms = 0
    · exact .inl ⟨.badModulus, if_pos hm⟩
    · exact .inr ⟨hN, (src s s.cfgN.toNat va).map fun c => balmod c (modSel s ms), by simp, if_neg hm⟩
  | invp vd va ms =>
    refine ⟨s, .inl rfl, ?_⟩
    cases hp : isPrime (modSel s ms) with
    | false => exact .inl ⟨_, exec_invp_badModulus hN hp⟩
    | true =>
      cases hi : invModPrime s.cfgN.toNat (modSel s ms) (src s s.cfgN.toNat va) with
      | none => exact .inl ⟨_, exec_invp_none hN hp hi⟩
      | some h => exact .inr ⟨hN, h, length_invModPrime hi, exec_invp_some hN hp hi⟩
  | inv2k vd va ms =>
    cases hk : pow2Exponent (modSel s ms) with
    | none => exact ⟨s, .inl rfl, .inl ⟨_, exec_inv2k_badModulus hN hk⟩⟩
    | some k =>
      cases hi : invModPrime s.cfgN.toNat 2 (src s s.cfgN.toNat va) with
      | none => exact ⟨_, .inr ⟨vd, va, ms, 0, rfl, rfl⟩, .inl ⟨_, exec_inv2k_none hN hk hi⟩⟩
      | some h =>
        cases hl : newtonLoop s.cfgN.toNat (modSel s ms) (src s s.cfgN.toNat va) (iterationCap k) 0 h with
        | converged g it =>
          exact ⟨_, .inr ⟨vd, va, ms, it, rfl, rfl⟩,
            .inr ⟨hN, g, length_newtonLoop (length_invModPrime hi) hl, exec_inv2k_converged hN hk hi hl⟩⟩
        | capped it => exact ⟨_, .inr ⟨vd, va, ms, it, rfl, rfl⟩, .inl ⟨_, exec_inv2k_capped hN hk hi hl⟩⟩
  | mov vd va => exact ⟨s, .inl rfl, .inr ⟨hN, _, length_src .., exec_mov hN vd va⟩⟩
  | ldc vd imm => exact ⟨s, .inl rfl, .inr ⟨hN, _, length_constPoly .., exec_ldc hN vd imm⟩⟩

/-! ### What a Unit step can do -/

theorem unitStep_idle {s : State} (h : s.pending = .none) : unitStep s = .next s := by
  simp [unitStep, h]

theorem unitStep_held {s : State} (h : s.rstN = false) : unitStep s = .next s := by
  simp [unitStep, h]

theorem unitStep_init {s : State} (h : s.rstN = true) (hp : s.pending = .init) :
    unitStep s = .next (initDone s) := by
  simp [unitStep, h, hp]

theorem unitStep_term {s : State} {w : Word} {i : Instr} (h : s.rstN = true) (hp : s.pending = .cmd w)
    (hd : decode w = .term i) : unitStep s = exec i s := by
  simp [unitStep, h, hp, completeCommand, hd]

theorem unitStep_illegal {s : State} {w : Word} {why : IllegalWord} (h : s.rstN = true)
    (hp : s.pending = .cmd w) (hd : decode w = .illegal why) : unitStep s = fail .illegalCmd s := by
  simp [unitStep, h, hp, completeCommand, hd]

/-- Everything a Unit step can do. -/
theorem unitStep_cases (s : State) :
    unitStep s = .next s ∨
    (s.rstN = true ∧ s.pending = .init ∧ unitStep s = .next (initDone s)) ∨
    (s.rstN = true ∧ ∃ w, s.pending = .cmd w ∧
      ((∃ i, decode w = .term i ∧ unitStep s = exec i s) ∨
       (∃ why, decode w = .illegal why ∧ unitStep s = fail .illegalCmd s))) := by
  cases hr : s.rstN with
  | false => exact .inl (unitStep_held hr)
  | true =>
    cases hp : s.pending with
    | none => exact .inl (unitStep_idle hp)
    | init => exact .inr (.inl ⟨rfl, rfl, unitStep_init hr hp⟩)
    | cmd w =>
      refine .inr (.inr ⟨rfl, w, rfl, ?_⟩)
      cases hd : decode w with
      | term i => exact .inl ⟨i, rfl, unitStep_term hr hp hd⟩
      | illegal why => exact .inr ⟨why, rfl, unitStep_illegal hr hp hd⟩

/-! ### A write to STATUS, field by field -/

@[simp] theorem writeStatus_v (x : Word) (s : State) : (writeStatus x s).v = s.v := by
  unfold writeStatus; split <;> rfl

@[simp] theorem writeStatus_cfgN (x : Word) (s : State) : (writeStatus x s).cfgN = s.cfgN := by
  unfold writeStatus; split <;> rfl

@[simp] theorem writeStatus_cfgP (x : Word) (s : State) : (writeStatus x s).cfgP = s.cfgP := by
  unfold writeStatus; split <;> rfl

@[simp] theorem writeStatus_cfgQ (x : Word) (s : State) : (writeStatus x s).cfgQ = s.cfgQ := by
  unfold writeStatus; split <;> rfl

@[simp] theorem writeStatus_cfgM (x : Word) (s : State) : (writeStatus x s).cfgM = s.cfgM := by
  unfold writeStatus; split <;> rfl

@[simp] theorem writeStatus_cmdLast (x : Word) (s : State) : (writeStatus x s).cmdLast = s.cmdLast := by
  unfold writeStatus; split <;> rfl

@[simp] theorem writeStatus_ieDone (x : Word) (s : State) : (writeStatus x s).ieDone = s.ieDone := by
  unfold writeStatus; split <;> rfl

@[simp] theorem writeStatus_ieErr (x : Word) (s : State) : (writeStatus x s).ieErr = s.ieErr := by
  unfold writeStatus; split <;> rfl

@[simp] theorem writeStatus_iters (x : Word) (s : State) : (writeStatus x s).iters = s.iters := by
  unfold writeStatus; split <;> rfl

@[simp] theorem writeStatus_errinfo (x : Word) (s : State) : (writeStatus x s).errinfo = s.errinfo := by
  unfold writeStatus; split <;> rfl

@[simp] theorem writeStatus_pending (x : Word) (s : State) : (writeStatus x s).pending = s.pending := by
  unfold writeStatus; split <;> rfl

@[simp] theorem writeStatus_params (x : Word) (s : State) : (writeStatus x s).params = s.params := by
  unfold writeStatus; split <;> rfl

@[simp] theorem writeStatus_rstN (x : Word) (s : State) : (writeStatus x s).rstN = s.rstN := by
  unfold writeStatus; split <;> rfl

@[simp] theorem writeStatus_inputs (x : Word) (s : State) : (writeStatus x s).inputs = s.inputs := by
  unfold writeStatus; split <;> rfl

@[simp] theorem writeStatus_bus (x : Word) (s : State) : (writeStatus x s).bus = s.bus := by
  unfold writeStatus; split <;> rfl

@[simp] theorem writeStatus_done (x : Word) (s : State) : (writeStatus x s).done = (s.done && !x.getLsbD 1) := by
  unfold writeStatus; split <;> rfl

@[simp] theorem writeStatus_cmdrej (x : Word) (s : State) : (writeStatus x s).cmdrej = (s.cmdrej && !x.getLsbD 3) := by
  unfold writeStatus; split <;> rfl

@[simp] theorem writeStatus_accerr (x : Word) (s : State) : (writeStatus x s).accerr = (s.accerr && !x.getLsbD 5) := by
  unfold writeStatus; split <;> rfl

@[simp] theorem writeStatus_err (x : Word) (s : State) : (writeStatus x s).err = (s.err && !x.getLsbD 2) := by
  unfold writeStatus; split <;> simp_all

@[simp] theorem writeStatus_errcode (x : Word) (s : State) :
    (writeStatus x s).errcode = if x.getLsbD 2 then 0#4 else s.errcode := by
  unfold writeStatus; split <;> rfl

/-! ### What a Host step can do -/

/-- A read changes nothing but ACCERR, and that only where it is dropped (R66, R70). -/
theorem busRead_state (addr : BusAddr) (s : State) :
    (busRead addr s).1 = s ∨ (s.busy = true ∧ (busRead addr s).1 = dropAccess s) := by
  unfold busRead
  split
  · exact .inl rfl
  · exact .inl rfl
  · exact .inl rfl
  · split
    · exact .inl rfl
    · split
      · exact .inr ⟨‹_›, rfl⟩
      · exact .inl rfl

/-- Everything a write can do. -/
theorem busWrite_state (addr : BusAddr) (wdata : Word) (s : State) :
    (busWrite addr wdata s).1 = s ∨
    (s.busy = true ∧ (busWrite addr wdata s).1 = dropAccess s) ∨
    (∃ reg, decodeAddr addr = .block reg ∧ (busWrite addr wdata s).1 = blockWrite reg wdata s) ∨
    (∃ r i half, decodeAddr addr = .slot r i half ∧ i < s.params.nmax ∧ s.busy = false ∧
      (busWrite addr wdata s).1 = s.setSlot r i (writeHalf half (s.slot r i) wdata)) := by
  unfold busWrite
  split
  · exact .inl rfl
  · exact .inl rfl
  · exact .inr (.inr (.inl ⟨_, by assumption, rfl⟩))
  · split
    · exact .inl rfl
    · split
      · exact .inr (.inl ⟨by assumption, rfl⟩)
      · rename_i hd hn hb
        exact .inr (.inr (.inr ⟨_, _, _, hd, by omega, by simpa using hb, rfl⟩))

theorem hostStep_held {s : State} (t : Transaction) (h : s.rstN = false) :
    hostStep t s = setBus none s := by
  simp [hostStep, h]

theorem hostStep_live {s : State} (t : Transaction) (h : s.rstN = true) :
    hostStep t s = setBus (some (transact t s).2) (transact t s).1 := by
  simp [hostStep, h]

/-! ### What a step can do -/

theorem step_empty {s : State} (h : s.inputs = []) : step s = unitStep s := by
  simp [step, h]

theorem step_unit {s : State} {rest : List Input} (h : s.inputs = .unit :: rest) :
    step s = unitStep (setInputs rest s) := by
  simp [step, h]

theorem step_host {s : State} {t : Transaction} {rest : List Input} (h : s.inputs = .host t :: rest) :
    step s = .next (hostStep t (setInputs rest s)) := by
  simp [step, h]

theorem step_rstN {s : State} {level : Bool} {rest : List Input} (h : s.inputs = .rstN level :: rest) :
    step s = .next (setRstN level (setInputs rest s)) := by
  simp [step, h]

/-- A reset port that takes the level it has leaves the PRAU alone (R240: only an edge resets). -/
theorem setRstN_high_high {s : State} (h : s.rstN = true) : setRstN true s = s := by
  simp [setRstN, h]

theorem setRstN_release {s : State} (h : s.rstN = false) : setRstN true s = setPort true (resetStep s) := by
  simp [setRstN, h]

theorem setRstN_low (s : State) : setRstN false s = setBus none (setPort false (resetStep s)) := rfl

end Sys2Proof.Machine
end

