-- ==== Sys2Proof/Laws/PerInstr.lean ====
section
/-! SUPPORT. One statement for every row of the opcode table (R96), a lemma for each
constructor: the encoding of a command matches its row, and its bits 25:23 name the
register the command writes (R93, R100). -/

namespace Sys2Proof.Laws.OpcodeRow

/-- `mask` of R96's table. -/
def rowMask : Instr → Word
  | .conv _ _ _ => 0xFC01FFFF#32
  | .add _ _ _ => 0xFC01FFFF#32
  | .bmod _ _ _ => 0xFC0E7FFF#32
  | .invp _ _ _ => 0xFC0E7FFF#32
  | .inv2k _ _ _ => 0xFC0E7FFF#32
  | .mov _ _ => 0xFC0FFFFF#32
  | .ldc _ _ => 0xFC000000#32

/-- `match` of R96's table. -/
def rowMatch : Instr → Word
  | .conv _ _ _ => 0x04000000#32
  | .add _ _ _ => 0x08000000#32
  | .bmod _ _ _ => 0x0C000000#32
  | .invp _ _ _ => 0x10000000#32
  | .inv2k _ _ _ => 0x14000000#32
  | .mov _ _ => 0x18000000#32
  | .ldc _ _ => 0x1C000000#32

/-- The encoding matches the row, and its vd field is the destination. -/
def Statement (i : Instr) : Prop :=
  encode i &&& rowMask i = rowMatch i ∧ vdField (encode i) = i.dest

theorem conv (d a b : VReg) : Statement (.conv d a b) := by
  revert d a b; unfold Statement; decide +kernel

theorem add (d a b : VReg) : Statement (.add d a b) := by
  revert d a b; unfold Statement; decide +kernel

theorem bmod (d a : VReg) (ms : Ms) : Statement (.bmod d a ms) := by
  cases ms <;> (revert d a; unfold Statement; decide +kernel)

theorem invp (d a : VReg) (ms : Ms) : Statement (.invp d a ms) := by
  cases ms <;> (revert d a; unfold Statement; decide +kernel)

theorem inv2k (d a : VReg) (ms : Ms) : Statement (.inv2k d a ms) := by
  cases ms <;> (revert d a; unfold Statement; decide +kernel)

theorem mov (d a : VReg) : Statement (.mov d a) := by
  revert d a; unfold Statement; decide +kernel

/-- The immediate's bits lie below the row's mask and the vd field, whatever they hold. -/
theorem ldc_bits (d : VReg) (x : BitVec 23) :
    (0x1C000000#32 ||| regAt d 23 ||| x.setWidth 32) &&& 0xFC000000#32 = 0x1C000000#32 ∧
    (0x1C000000#32 ||| regAt d 23 ||| x.setWidth 32).extractLsb' 23 3 = BitVec.ofNat 3 d.val := by
  constructor
  · apply BitVec.eq_of_getLsbD_eq
    intro k hk
    simp only [BitVec.getLsbD_and, BitVec.getLsbD_or, BitVec.getLsbD_setWidth]
    by_cases h23 : k < 23
    · have h : (0xFC000000#32).getLsbD k = false ∧ (0x1C000000#32).getLsbD k = false := by
        revert k; decide
      simp [h]
    · simp only [BitVec.getLsbD_of_ge x k (by omega)]
      clear h23; revert d k; decide
  · apply BitVec.eq_of_getLsbD_eq
    intro k hk
    simp only [BitVec.getLsbD_extractLsb', BitVec.getLsbD_or, BitVec.getLsbD_setWidth,
      BitVec.getLsbD_of_ge x (23 + k) (by omega)]
    revert d k; decide

theorem ldc (d : VReg) (imm : Int) : Statement (.ldc d imm) := by
  obtain ⟨h, hd⟩ := ldc_bits d (BitVec.ofInt 23 imm)
  refine ⟨h, ?_⟩
  simp only [vdField, encode, hd, Instr.dest]
  clear h hd; revert d; decide

end Sys2Proof.Laws.OpcodeRow
end

