-- ==== Sys2Proof/Laws/Step.lean ====
section
/-! SUPPORT. Everything a bus write and a step can do, said once as named cases: the claims
about the whole machine are case analyses over these. -/

namespace Sys2Proof.Machine

/-! ### The address map read backwards -/

/-- The address of a register of the block (R64). -/
def blockAddr : BlockReg → BusAddr
  | .id => 0x000#20
  | .version => 0x004#20
  | .caps => 0x008#20
  | .iters => 0x00C#20
  | .cfgN => 0x010#20
  | .cfgP => 0x014#20
  | .cfgQ => 0x018#20
  | .cfgM => 0x01C#20
  | .cmd => 0x020#20
  | .status => 0x024#20
  | .ctrl => 0x028#20
  | .errinfo => 0x02C#20

theorem decodeAddr_blockAddr (reg : BlockReg) : decodeAddr (blockAddr reg) = .block reg := by
  cases reg <;> decide

theorem blockReg_eq {n : Nat} {reg : BlockReg} (h : blockReg n = some reg) : n = (blockAddr reg).toNat := by
  unfold blockReg at h
  split at h <;> cases h <;> rfl

theorem decodeAddr_block {a : BusAddr} {reg : BlockReg} (h : decodeAddr a = .block reg) : a = blockAddr reg := by
  unfold decodeAddr at h
  split at h
  · cases h
  · split at h
    · cases h
      exact BitVec.eq_of_toNat_eq (blockReg_eq (by assumption))
    · split at h <;> cases h

theorem decodeAddr_slot_range {a : BusAddr} {r : VReg} {i : Nat} {half : Half}
    (h : decodeAddr a = .slot r i half) : 0x10000 ≤ a.toNat ∧ a.toNat ≤ 0x4FFFF := by
  unfold decodeAddr at h
  split at h
  · cases h
  · split at h
    · cases h
    · split at h
      · assumption
      · cases h

/-! ### A bus write -/

/-- A write to a CFG register's address takes effect as the record update named. -/
inductive CfgEffect (x : Word) (s : State) : BusAddr → State → Prop where
  | cfgN : CfgEffect x s 0x010#20 (setCfgN x s)
  | cfgP : CfgEffect x s 0x014#20 (setCfgP x s)
  | cfgQ : CfgEffect x s 0x018#20 (setCfgQ x s)
  | cfgM : CfgEffect x s 0x01C#20 (setCfgM x s)

/-- The addresses whose accesses are dropped while busy (R35): the CFG registers, for writes,
and the coefficient window. -/
def Droppable (a : BusAddr) : Prop :=
  a = 0x010#20 ∨ a = 0x014#20 ∨ a = 0x018#20 ∨ a = 0x01C#20 ∨ (0x10000 ≤ a.toNat ∧ a.toNat ≤ 0x4FFFF)

/-- Everything a bus write can do (R64, R67, R70, R200, R201, R240). -/
inductive WriteEffect (a : BusAddr) (x : Word) (s : State) : State → Prop where
  | nothing : WriteEffect a x s s
  | dropped (hb : s.busy = true) (ha : Droppable a) : WriteEffect a x s (dropAccess s)
  | cfg {t : State} (hb : s.busy = false) (h : CfgEffect x s a t) : WriteEffect a x s t
  | rejected (ha : a = 0x020#20) (hb : s.busy = true ∨ s.err = true) : WriteEffect a x s (rejectCmd s)
  | accepted (ha : a = 0x020#20) (hb : s.busy = false) (he : s.err = false) : WriteEffect a x s (acceptCmd x s)
  | status (ha : a = 0x024#20) : WriteEffect a x s (writeStatus x s)
  | reset (ha : a = 0x028#20) (hx : x.getLsbD 31 = true) : WriteEffect a x s (resetStep s)
  | enables (ha : a = 0x028#20) (hx : x.getLsbD 31 = false) :
    WriteEffect a x s (setEnables (x.getLsbD 0) (x.getLsbD 1) s)
  | slot {r : VReg} {i : Nat} {half : Half} (hd : decodeAddr a = .slot r i half) (hi : i < s.params.nmax)
    (hb : s.busy = false) : WriteEffect a x s (s.setSlot r i (writeHalf half (s.slot r i) x))

theorem writeCfg_effect {a : BusAddr} {x : Word} {s : State} {f : State → State} (ha : Droppable a)
    (h : CfgEffect x s a (f s)) : WriteEffect a x s (writeCfg f s) := by
  cases hb : s.busy with
  | true => simpa [writeCfg, hb] using WriteEffect.dropped hb ha
  | false => simpa [writeCfg, hb] using WriteEffect.cfg hb h

theorem issueCmd_effect (x : Word) (s : State) : WriteEffect 0x020#20 x s (issueCmd x s) := by
  cases hb : s.busy with
  | true => simpa [issueCmd, hb] using WriteEffect.rejected rfl (.inl hb)
  | false =>
    cases he : s.err with
    | true => simpa [issueCmd, hb, he] using WriteEffect.rejected rfl (.inr he)
    | false => simpa [issueCmd, hb, he] using WriteEffect.accepted rfl hb he

theorem writeCtrl_effect (x : Word) (s : State) : WriteEffect 0x028#20 x s (writeCtrl x s) := by
  cases hx : x.getLsbD 31 with
  | true => simpa only [writeCtrl, hx, if_true] using WriteEffect.reset rfl hx
  | false => simpa only [writeCtrl, hx, Bool.false_eq_true, if_false] using WriteEffect.enables rfl hx

theorem blockWrite_effect (reg : BlockReg) (x : Word) (s : State) :
    WriteEffect (blockAddr reg) x s (blockWrite reg x s) := by
  cases reg with
  | id => exact .nothing
  | version => exact .nothing
  | caps => exact .nothing
  | iters => exact .nothing
  | errinfo => exact .nothing
  | cfgN => exact writeCfg_effect (.inl rfl) .cfgN
  | cfgP => exact writeCfg_effect (.inr (.inl rfl)) .cfgP
  | cfgQ => exact writeCfg_effect (.inr (.inr (.inl rfl))) .cfgQ
  | cfgM => exact writeCfg_effect (.inr (.inr (.inr (.inl rfl)))) .cfgM
  | cmd => exact issueCmd_effect x s
  | status => exact .status rfl
  | ctrl => exact writeCtrl_effect x s

/-- The spec lemma of a bus write. -/
theorem busWrite_effect (a : BusAddr) (x : Word) (s : State) : WriteEffect a x s (busWrite a x s).1 := by
  unfold busWrite
  split
  · exact .nothing
  · exact .nothing
  · rename_i reg hd
    rw [decodeAddr_block hd]
    exact blockWrite_effect reg x s
  · rename_i r i half hd
    by_cases hi : s.params.nmax ≤ i
    · simpa only [hi, if_true] using WriteEffect.nothing
    · cases hb : s.busy with
      | true =>
        simpa only [hi, hb, if_true, if_false] using
          WriteEffect.dropped hb (.inr (.inr (.inr (.inr (decodeAddr_slot_range hd)))))
      | false =>
        simpa only [hi, if_false, Bool.false_eq_true] using WriteEffect.slot hd (by omega) hb

/-! ### A Unit step with the input used up -/

/-- Everything the Unit's turn can do. -/
theorem unitTurn_cases {s t : State} (hu : s.unitTurn) (h : unitStep (setInputs s.inputs.tail s) = .next t) :
    (s.pending = .none ∧ t = setInputs s.inputs.tail s) ∨
    (s.pending = .init ∧ t = initDone (setInputs s.inputs.tail s)) ∨
    ∃ w, s.pending = .cmd w ∧
      ((∃ why, decode w = .illegal why ∧ t = raiseError .illegalCmd (setInputs s.inputs.tail s)) ∨
       ∃ c u, decode w = .term c ∧ Staged c (setInputs s.inputs.tail s) u ∧
        ((∃ e, t = raiseError e u) ∨
         (s.legalN ∧ ∃ res : List Int, res.length = s.cfgN.toNat ∧ t = completeOk (writeBack c.dest res u)))) := by
  cases hp : s.pending with
  | none =>
    rw [unitStep_idle (by simpa using hp)] at h
    cases h
    exact .inl ⟨rfl, rfl⟩
  | init =>
    rw [unitStep_init (by simpa using hu.1) (by simpa using hp)] at h
    cases h
    exact .inr (.inl ⟨rfl, rfl⟩)
  | cmd w =>
    refine .inr (.inr ⟨w, rfl, ?_⟩)
    cases hd : decode w with
    | illegal why =>
      rw [unitStep_illegal (by simpa using hu.1) (by simpa using hp) hd] at h
      cases h
      exact .inl ⟨why, rfl, rfl⟩
    | term c =>
      rw [unitStep_term (by simpa using hu.1) (by simpa using hp) hd] at h
      obtain ⟨u, hs, ⟨e, he⟩ | ⟨hN, res, hlen, he⟩⟩ := exec_cases c (setInputs s.inputs.tail s)
      · rw [he] at h
        cases h
        exact .inr ⟨c, u, rfl, hs, .inl ⟨e, rfl⟩⟩
      · rw [he] at h
        cases h
        exact .inr ⟨c, u, rfl, hs, .inr ⟨hN, res, hlen, rfl⟩⟩

/-! ### A step -/

/-- Everything a step can do. u is s with the input used up. -/
inductive StepEffect (s : State) : State → Prop where
  /-- The Unit's step. -/
  | unit {t : State} (hu : s.unitTurn) (h : unitStep (setInputs s.inputs.tail s) = .next t) : StepEffect s t
  /-- An input that has no effect while the PRAU is held in reset. -/
  | held {b : Option BusAnswer} (hr : s.rstN = false) : StepEffect s (setBus b (setInputs s.inputs.tail s))
  /-- The Host's read. -/
  | read {a : BusAddr} {b : BusAnswer} (hh : s.hostReads a) : StepEffect s (setBus (some b) (setInputs s.inputs.tail s))
  /-- The Host's read, dropped. -/
  | readDropped {a : BusAddr} {b : BusAnswer} (hh : s.hostReads a) (hb : s.busy = true)
    (ha : 0x10000 ≤ a.toNat ∧ a.toNat ≤ 0x4FFFF) :
    StepEffect s (setBus (some b) (dropAccess (setInputs s.inputs.tail s)))
  /-- The Host's write. -/
  | write {a : BusAddr} {x : Word} {b : BusAnswer} {t : State} (hh : s.hostWrites a x)
    (h : WriteEffect a x (setInputs s.inputs.tail s) t) : StepEffect s (setBus (some b) t)
  /-- The reset port keeps its high level. -/
  | portKept (hr : s.rstN = true) (hi : ∃ rest, s.inputs = .rstN true :: rest) :
    StepEffect s (setInputs s.inputs.tail s)
  /-- The reset step, on an edge of the reset port or while it is low. -/
  | portReset {b : Option BusAnswer} (level : Bool) (hr : s.resetTurn) :
    StepEffect s (setBus b (setPort level (resetStep (setInputs s.inputs.tail s))))

/-- The spec lemma of a step. -/
theorem step_effect {s t : State} (h : step s = .next t) : StepEffect s t := by
  cases hin : s.inputs with
  | nil =>
    rw [step_empty hin] at h
    cases hr : s.rstN with
    | true =>
      refine .unit ⟨hr, .inl hin⟩ ?_
      rw [hin]
      have : setInputs [] s = s := by rw [← hin]; rfl
      rw [show ([] : List Input).tail = [] from rfl, this]
      exact h
    | false =>
      rw [unitStep_held hr] at h
      cases h
      have hs : StepEffect s (setBus s.bus (setInputs s.inputs.tail s)) := .held hr
      rwa [hin, List.tail_nil, ← hin] at hs
  | cons e rest =>
    have htail : s.inputs.tail = rest := by rw [hin]; rfl
    cases e with
    | unit =>
      rw [step_unit hin] at h
      cases hr : s.rstN with
      | true =>
        refine .unit ⟨hr, .inr ⟨rest, hin⟩⟩ ?_
        rw [htail]
        exact h
      | false =>
        rw [unitStep_held (by simpa using hr)] at h
        cases h
        rw [← htail]
        exact StepEffect.held (b := s.bus) hr
    | rstN level =>
      rw [step_rstN hin] at h
      cases level with
      | false =>
        cases h
        rw [setRstN_low, ← htail]
        exact .portReset false (.inr ⟨false, rest, hin, by simp⟩)
      | true =>
        cases hr : s.rstN with
        | true =>
          rw [setRstN_high_high (by simpa using hr)] at h
          cases h
          rw [← htail]
          exact .portKept hr ⟨rest, hin⟩
        | false =>
          rw [setRstN_release (by simpa using hr)] at h
          cases h
          rw [← htail]
          exact StepEffect.portReset (b := s.bus) true (.inr ⟨true, rest, hin, by simp [hr]⟩)
    | host tr =>
      rw [step_host hin] at h
      cases hr : s.rstN with
      | false =>
        rw [hostStep_held _ (by simpa using hr)] at h
        cases h
        rw [← htail]
        exact .held hr
      | true =>
        rw [hostStep_live _ (by simpa using hr)] at h
        cases h
        rw [← htail] at *
        cases tr with
        | write a x => exact .write ⟨hr, _, hin⟩ (busWrite_effect a x _)
        | read a =>
          show StepEffect s (setBus _ (busRead a _).1)
          unfold busRead
          split
          · exact .read ⟨hr, _, hin⟩
          · exact .read ⟨hr, _, hin⟩
          · exact .read ⟨hr, _, hin⟩
          · rename_i hd
            split
            · exact .read ⟨hr, _, hin⟩
            · split
              · exact .readDropped ⟨hr, _, hin⟩ (by assumption) (decodeAddr_slot_range hd)
              · exact .read ⟨hr, _, hin⟩

end Sys2Proof.Machine
end

