-- ==== Sys2Proof/Tests/Slice0.lean ====
section
/-! SUPPORT. The model's own tests, each expected value taken from the spec (mostly
95_test_vectors.md, named in the docstring), and one witness for the hypotheses of every
statement that has any. -/

open Sys2Proof Sys2Proof.Machine Host.Outcome

/-! ### Helpers -/

/-- The registers' slots from 0 on. -/
def Sys2Proof.Machine.State.load (s : State) (r : VReg) (cs : List Int) : State := s.setPoly r (Poly.ofList 0 cs)

/-- The command word w is in flight. -/
def Sys2Proof.Machine.State.flight (s : State) (w : Word) : State := { s with pending := .cmd w, cmdLast := w }

/-- What the environment does next. -/
def Sys2Proof.Machine.State.queue (s : State) (is : List Input) : State := { s with inputs := is }

namespace Sys2Proof.Tests

/-- r answers a next state on which p holds. -/
def after (r : Result) (p : State → Bool) : Bool :=
  match r with
  | .next t => p t
  | .fault _ => false
  | .refused _ => false

theorem after_next {r : Result} {p : State → Bool} (h : after r p = true) : ∃ t, r = next t ∧ p t = true := by
  cases r with
  | next t => exact ⟨t, rfl, h⟩
  | fault _ => cases h
  | refused _ => cases h

/-- The reference part after INIT. -/
def idle : State := { State.reset with pending := .none }

/-- CFG_N, CFG_P, CFG_Q, CFG_M. -/
def cfg (n p q m : Nat) : State :=
  { idle with cfgN := BitVec.ofNat 32 n, cfgP := BitVec.ofNat 32 p, cfgQ := BitVec.ofNat 32 q, cfgM := BitVec.ofNat 32 m }

/-- One vector of 95_test_vectors.md: the next step completes w; then register r, STATUS and
ITERS are as given. -/
def vector (s : State) (w : Nat) (r : VReg) (res : List Int) (status iters : Word) : Bool :=
  after (step (s.withFetchWord 32 w)) fun t =>
    t.v.reg r == Poly.ofList 0 res && statusWord t == status && t.iters == iters

/-- The state after a Host step and its answer. -/
def answers (s : State) (t : Transaction) (a : BusAnswer) (p : State → Bool) : Bool :=
  after (step (State.queue s [.host t])) fun u => u.bus == some a && p u

/-! ### Well-formedness, encoding, assembly -/

/-- The one check of WellFormed refuses a constant just outside the range (R95, R101). -/
theorem test_wellFormed_refuses :
    (Instr.ldc 7 4194304).wellFormed = false ∧ (Instr.ldc 7 (-4194305)).wellFormed = false ∧
    (Instr.ldc 7 4194303).wellFormed = true ∧ (Instr.ldc 7 (-4194304)).wellFormed = true := by decide

/-- R91: op 1, vd 3, va 0, vb 1, ms 0, zero 0. -/
theorem test_decode_conv :
    decode (0b000001#6 ++ 0b011#3 ++ 0b000#3 ++ 0b001#3 ++ 0b00#2 ++ 0#15) = .term (.conv 3 0 1) := by decide

/-- R91: op 2, vd 7, va 6, vb 2. -/
theorem test_decode_add :
    decode (0b000010#6 ++ 0b111#3 ++ 0b110#3 ++ 0b010#3 ++ 0b00#2 ++ 0#15) = .term (.add 7 6 2) := by decide

/-- R91, R94: op 3, vd 3, va 5, ms 1. -/
theorem test_decode_bmod :
    decode (0b000011#6 ++ 0b011#3 ++ 0b101#3 ++ 0b000#3 ++ 0b01#2 ++ 0#15) = .term (.bmod 3 5 .q) := by decide

/-- R91, R94: op 4, vd 5, va 1, ms 3. -/
theorem test_decode_invp :
    decode (0b000100#6 ++ 0b101#3 ++ 0b001#3 ++ 0b000#3 ++ 0b11#2 ++ 0#15) = .term (.invp 5 1 .two) := by decide

/-- R91, R94: op 5, vd 1, va 4, ms 2. -/
theorem test_decode_inv2k :
    decode (0b000101#6 ++ 0b001#3 ++ 0b100#3 ++ 0b000#3 ++ 0b10#2 ++ 0#15) = .term (.inv2k 1 4 .m) := by decide

/-- R91: op 6, vd 6, va 1. -/
theorem test_decode_mov :
    decode (0b000110#6 ++ 0b110#3 ++ 0b001#3 ++ 0b000#3 ++ 0b00#2 ++ 0#15) = .term (.mov 6 1) := by decide

/-- R92, R95: op 7, vd 7, imm23 = 1 followed by 22 zeros, the least constant. -/
theorem test_decode_ldc :
    decode (0b000111#6 ++ 0b111#3 ++ 0b10000000000000000000000#23) = .term (.ldc 7 (-4194304)) := by decide

/-- R97, R98: V-DEC-1 to V-DEC-7. -/
theorem test_decode_illegal :
    decode 0x00000000#32 = .illegal .undefinedOp ∧ decode 0x20000000#32 = .illegal .undefinedOp ∧
    decode 0xFC000000#32 = .illegal .undefinedOp ∧ decode 0x05820001#32 = .illegal .mustBeZero ∧
    decode 0x05828000#32 = .illegal .mustBeZero ∧ decode 0x0C020000#32 = .illegal .mustBeZero ∧
    decode 0x18008000#32 = .illegal .mustBeZero := by decide

/-- The table's own numbering: a row's match word is its command with every operand 0. -/
theorem test_decodeTableWord :
    decodeTableWord 32 0x04000000 = some (.conv 0 0 0) ∧ decodeTableWord 32 0x1C7FFFFF = some (.ldc 0 (-1)) ∧
    decodeTableWord 32 0 = none := by decide

/-- R101: lines of the table, and a constant out of range rejected. -/
theorem test_assemble :
    (assembleLine "CONV v3, v0, v1 ; comment".toList).map (List.map encode) = some [0x05820000#32] ∧
    (assembleLine "INVP v5, v0, 2".toList).map (List.map encode) = some [0x12818000#32] ∧
    (assembleLine "LDC v7, -4194304".toList).map (List.map encode) = some [0x1FC00000#32] ∧
    assembleLine "LDC v7, 4194304".toList = none := by decide

/-- R102: SCALE is two commands, and vt must differ from va. -/
theorem test_assemble_scale :
    assembleLine "SCALE v3, v1, v7, 3".toList = some [.ldc 7 3, .conv 3 1 7] ∧
    assembleLine "SCALE v3, v1, v1, 3".toList = none := by decide

/-! ### Commands: 95_test_vectors.md, part 2 -/

/-- V-CONV-7: slot 2 is not read, and slot 2 of vd becomes 0. -/
theorem test_conv :
    vector (((cfg 2 7 0x100000 0).load 0 [1, 2, 99]).load 1 [3, 4, 99]) 0x05020000 2 [11, 10] 0x012#32 0#32 = true := by
  decide

/-- V-CONV-3: 2^63 does not fit. -/
theorem test_conv_overflow :
    vector (((cfg 1 7 0x100000 0).load 0 [4611686018427387904]).load 1 [2]) 0x05020000 2 [] 0x514#32 0#32 = true := by
  decide

/-- V-ADD-5: vd = va = vb. -/
theorem test_add : vector ((cfg 2 7 0x100000 0).load 0 [3, -4]) 0x08000000 0 [6, -8] 0x012#32 0#32 = true := by
  decide

/-- V-ADD-3: -2^63 - 1 does not fit. -/
theorem test_add_overflow :
    vector (((cfg 1 7 0x100000 0).load 0 [-9223372036854775808]).load 1 [-1]) 0x09020000 2 [] 0x514#32 0#32 = true := by
  decide

/-- V-BMOD-7: floor-mod, not truncating-mod. -/
theorem test_bmod_floor :
    vector ((cfg 4 7 0x100000 0).load 0 [-17, 17, -4, 4]) 0x0C800000 1 [-3, 3, 3, -3] 0x012#32 0#32 = true := by
  decide

/-- V-BMOD-8: the extreme coefficients and modulus. -/
theorem test_bmod_extreme :
    vector ((cfg 2 7 0x100000 0xFFFFFFFF).load 0 [-9223372036854775808, 9223372036854775807]) 0x0C810000 1
      [2147483647, 2147483647] 0x012#32 0#32 = true := by decide

/-- V-INVP-1: the worked example of R154. -/
theorem test_invp :
    vector ((cfg 11 3 0x100000 0).load 0 [1, 0, 0, 1, 0, 0, 0, -1]) 0x11000000 2 [0, 1, -1, 1, -1, 1, -1, 1]
      0x012#32 0#32 = true := by decide

/-- V-INVP-4a: all-ones has no inverse. -/
theorem test_invp_notInvertible :
    vector ((cfg 4 3 0x100000 0).load 0 [1, 1, 1, 1]) 0x10800000 1 [] 0x414#32 0#32 = true := by decide

/-- V-INV2K-1: the worked example of R158, with its refinement count. -/
theorem test_inv2k :
    vector ((cfg 11 7 32 0).load 0 [1, 0, 0, 1, 0, 0, 0, -1]) 0x14808000 1 [0, 1, -1, 1, -1, 1, -1, 1]
      0x012#32 3#32 = true := by decide

/-- V-INV2K-3a: m = 2 reaches the cap. -/
theorem test_inv2k_cap : vector ((cfg 4 7 0x100000 0).load 0 [1]) 0x14818000 1 [] 0x614#32 4#32 = true := by
  decide

/-- V-MOV-1. -/
theorem test_mov : vector ((cfg 2 7 0x100000 0).load 1 [7, -3, 9]) 0x1B100000 6 [7, -3] 0x012#32 0#32 = true := by
  decide

/-- V-MOV-2: vd = va, and the slots from N on become 0. -/
theorem test_mov_self : vector ((cfg 2 7 0x100000 0).load 1 [7, -3, 9]) 0x18900000 1 [7, -3] 0x012#32 0#32 = true := by
  decide

/-- V-LDC-2: the constant is sign-extended, and the other slots become 0. -/
theorem test_ldc : vector ((cfg 3 7 0x100000 0).load 0 [5, 5, 5]) 0x1C7FFFFF 0 [-1] 0x012#32 0#32 = true := by
  decide

/-- V-LDC-6: the N check applies to LDC, N = NMAX + 1. -/
theorem test_ldc_badN : vector (cfg 1025 7 0x100000 0) 0x1D000005 2 [] 0x214#32 0#32 = true := by decide

/-- V-DEC-9, V-DEC-10: the priority of the errors. -/
theorem test_priority :
    vector (cfg 0 7 0x100000 0) 0x00000000 1 [] 0x114#32 0#32 = true ∧
    vector (cfg 0 7 0x100000 0) 0x0C810000 1 [] 0x214#32 0#32 = true := by decide

/-- P4 step 11: the error leaves the word in ERRINFO. -/
theorem test_errinfo :
    after (step (((cfg 4 7 0x100000 0).load 0 [1, 1, 1, 1]).withFetchWord 32 0x14808000)) (fun t =>
      t.errinfo == 0x14808000#32 && t.cmdLast == 0x14808000#32 && t.errcode == 4#4) = true := by decide

/-! ### The bus, the interrupt, reset -/

/-- V-BUS-1 to V-BUS-5. -/
theorem test_bus_identification :
    answers idle (.read 0x000#20) (.read 0x50524155#32 false) (fun _ => true) = true ∧
    answers idle (.read 0x004#20) (.read 0x00000001#32 false) (fun _ => true) = true ∧
    answers idle (.read 0x008#20) (.read 0x40080400#32 false) (fun _ => true) = true ∧
    answers State.reset (.read 0x024#20) (.read 0x00000011#32 false) (fun _ => true) = true ∧
    answers idle (.read 0x024#20) (.read 0x00000010#32 false) (fun _ => true) = true := by decide

/-- V-BUS-6 to V-BUS-10. -/
theorem test_bus_errors :
    answers idle (.read 0x002#20) (.read 0#32 true) (fun _ => true) = true ∧
    answers idle (.write 0x030#20 1#32) (.write true) (fun _ => true) = true ∧
    answers idle (.read 0x50000#20) (.read 0#32 true) (fun _ => true) = true ∧
    answers idle (.read 0x12000#20) (.read 0#32 true) (fun _ => true) = true ∧
    answers idle (.read 0x11FF8#20) (.read 0#32 false) (fun t => !t.accerr) = true := by decide

/-- V-BUS-12 and V-BUS-13: the halves of v3. -/
theorem test_bus_window_write :
    answers (idle.load 3 [4294967291]) (.write 0x28004#20 0xFFFFFFFF#32) (.write false)
      (fun t => (t.slot 3 0).toInt == -5) = true ∧
    answers idle (.write 0x2802C#20 1#32) (.write false) (fun t => (t.slot 3 5).toInt == 4294967296) = true := by
  decide

/-- V-BUS-14 to V-BUS-16: while busy. -/
theorem test_bus_busy :
    answers State.reset (.write 0x010#20 11#32) (.write false) (fun t => t.accerr && t.cfgN == 20#32) = true ∧
    answers (idle.load 0 [9]) (.read 0x10000#20) (.read 9#32 false) (fun t => !t.accerr) = true ∧
    answers ((idle.load 0 [9]).flight 0#32) (.read 0x10000#20) (.read 0#32 false) (fun t => t.accerr) = true ∧
    answers State.reset (.write 0x020#20 7#32) (.write false) (fun t => t.cmdrej && t.cmdLast == 0#32) = true := by
  decide

/-- V-BUS-18: ERR and ERRCODE are cleared together; CMDREJ stays. -/
theorem test_bus_w1c :
    answers { idle with err := true, errcode := 4#4, cmdrej := true } (.write 0x024#20 4#32) (.write false)
      (fun t => statusWord t == 0x018#32) = true := by decide

/-- V-BUS-19: SOFT_RESET ignores the enables in the same word. -/
theorem test_bus_soft_reset :
    answers { (cfg 3 2 8 9).load 1 [1] with ieDone := true } (.write 0x028#20 0x80000003#32) (.write false) (fun t =>
      ctrlWord t == 0#32 && t.cfgN == 20#32 && t.cfgP == 7#32 && t.cfgQ == 0x100000#32 && t.cfgM == 0#32 &&
      statusWord t == 0x011#32 && t.v.reg 1 == []) = true := by decide

/-- V-PV-1, V-PV-2, V-PV-7, V-PV-8. -/
theorem test_params_valid :
    paramsValid 0#32 1#32 = true ∧ paramsValid 0#32 0#32 = false ∧ paramsValid 7#32 0xFFFFFFFF#32 = true ∧
    paramsValid 0xFFFFFFFF#32 7#32 = false := by decide

/-- V-IRQ-1, V-IRQ-2, V-IRQ-4 and V-IRQ-6. -/
theorem test_irq :
    State.irq { idle with ieDone := true, done := true } = true ∧
    State.irq { idle with ieErr := true, done := true } = false ∧
    State.irq { idle with ieDone := true, ieErr := true, cmdrej := true, accerr := true } = false ∧
    answers { idle with ieDone := true, done := true } (.write 0x020#20 0#32) (.write false) (fun t => !t.irq) = true := by
  decide

/-- P6 step 2: the first step from reset completes INIT. -/
theorem test_init : after (step State.reset) (fun t => statusWord t == 0x010#32 && t.pending == .none) = true := by
  decide

/-- R240: at rst_n = 0 no transaction is answered. -/
theorem test_held_in_reset :
    after (step (State.queue { State.reset with rstN := false } [.host (.read 0x000#20)])) (fun t => t.bus == none) = true := by
  decide

/-- 20_memory.md R63: the window starts at PRAU_BASE and is 1 MiB. -/
theorem test_platform_offset :
    platformOffset { nmax := 1024, prauBase := 0x40000000, prauIrq := 5 } 0x40000024 = some 0x024#20 ∧
    platformOffset { nmax := 1024, prauBase := 0x40000000, prauIrq := 5 } 0x40100000 = none := by decide

/-! ### Witnesses: encoding and issue -/

/-- DecodeInvertsEncode: well-formed commands, at both ends of LDC's range. -/
theorem witness_DecodeInvertsEncode :
    (Instr.conv 7 0 7).wellFormed = true ∧ (Instr.ldc 0 (-4194304)).wellFormed = true ∧
    (Instr.ldc 7 4194303).wellFormed = true := by decide

/-- LegalWordIsItsEncoding: the least and the greatest legal word. -/
theorem witness_LegalWordIsItsEncoding :
    decode 0x04000000#32 = .term (.conv 0 0 0) ∧ decode 0x1FFFFFFF#32 = .term (.ldc 7 (-1)) := by decide

/-- IllegalWordCompletesWithIllegalCmd: the state, and a word for each kind of illegal word. -/
theorem witness_IllegalWordCompletesWithIllegalCmd :
    (∀ w : Word, (State.queue idle [.host (.write 0x00020#20 w), .unit]).rstN = true ∧
      (State.queue idle [.host (.write 0x00020#20 w), .unit]).pending = .none ∧
      (State.queue idle [.host (.write 0x00020#20 w), .unit]).err = false ∧
      (State.queue idle [.host (.write 0x00020#20 w), .unit]).inputs = .host (.write 0x00020#20 w) :: .unit :: []) ∧
    (0x03FFFFFF#32).toNat / 2 ^ 26 = 0 ∧ 0x08 ≤ (0x20000000#32).toNat / 2 ^ 26 ∧
    ((0x04018000#32).toNat / 2 ^ 26 = 0x01 ∧ ¬ (0x04018000#32).toNat / 2 ^ 15 % 4 = 0) ∧
    ((0x08004000#32).toNat / 2 ^ 26 = 0x02 ∧ ¬ (0x08004000#32).toNat % 2 ^ 15 = 0) ∧
    ((0x14020000#32).toNat / 2 ^ 26 = 0x05 ∧ ¬ (0x14020000#32).toNat / 2 ^ 17 % 8 = 0) ∧
    ((0x18000001#32).toNat / 2 ^ 26 = 0x06 ∧ ¬ (0x18000001#32).toNat % 2 ^ 15 = 0) :=
  ⟨fun _ => ⟨rfl, rfl, rfl, rfl⟩, by decide⟩

/-- IdleCmdWriteIsAccepted: an idle part, whatever the word. -/
theorem witness_IdleCmdWriteIsAccepted :
    let s := State.queue idle [.host (.write 0x00020#20 0x05020000#32)]
    s.rstN = true ∧ s.inputs = .host (.write 0x00020#20 0x05020000#32) :: [] ∧ s.pending = .none ∧ s.err = false := by
  decide

/-- BusyOrErrCmdWriteIsRejected: INIT in flight, a command in flight, ERR = 1. -/
theorem witness_BusyOrErrCmdWriteIsRejected :
    ∀ s ∈ [State.reset, idle.flight 0x1D000005#32, { idle with err := true, errcode := 4#4 }],
      let t := State.queue s [.host (.write 0x00020#20 7#32)]
      t.rstN = true ∧ t.inputs = .host (.write 0x00020#20 7#32) :: [] ∧ (t.pending ≠ .none ∨ t.err = true) := by
  decide

/-- StepRunsTheDecodedCommand: both schedules. -/
theorem witness_StepRunsTheDecodedCommand :
    ∀ is ∈ [([] : List Input), [.unit, .unit]],
      let s := State.queue (idle.flight 0x1F800003#32) is
      s.rstN = true ∧ s.pending = .cmd 0x1F800003#32 ∧ decode 0x1F800003#32 = .term (.ldc 7 3) ∧
      (s.inputs = [] ∨ s.inputs = .unit :: [.unit]) := by decide

/-- FetchWordRunsTheCommand. -/
theorem witness_FetchWordRunsTheCommand : (Instr.inv2k 1 0 .q).wellFormed = true := by decide

/-- SuccessChangesOnlyItsDestination: every command succeeds on some state with ERR = 0. -/
theorem witness_SuccessChangesOnlyItsDestination :
    ∀ i ∈ [Instr.conv 2 0 1, .add 2 0 1, .bmod 2 0 .q, .invp 2 0 .p, .inv2k 2 0 .q, .mov 2 0, .ldc 2 3],
      ((cfg 3 3 32 0).load 0 [1]).err = false ∧
      after (exec i ((cfg 3 3 32 0).load 0 [1])) (fun t => !t.err) = true := by decide

/-- ErrorChangesNoData, FirstErrorIsReported and CommandsRaiseTheirOwnCodes: a command fails with
its word in flight. INV2K with m = 2 writes ITERS; with m = 0, with N = 0, and every other
command leave it. -/
theorem witness_ErrorChangesNoData :
    (((cfg 3 3 32 0).load 0 [1]).flight 0x14818000#32).pending = .cmd 0x14818000#32 ∧
    (((cfg 3 3 32 0).load 0 [1]).flight 0x14818000#32).err = false ∧
    after (exec (.inv2k 1 0 .two) (((cfg 3 3 32 0).load 0 [1]).flight 0x14818000#32)) (fun t => t.err) = true ∧
    after (exec (.inv2k 1 0 .m) ((cfg 3 3 32 0).flight 0x14810000#32)) (fun t => t.err) = true ∧
    after (exec (.inv2k 1 0 .q) ((cfg 0 3 32 0).flight 0x14808000#32)) (fun t => t.err) = true ∧
    after (exec (.invp 1 0 .p) ((cfg 3 3 32 0).flight 0x10800000#32)) (fun t => t.err) = true := by decide

/-- The modulus checks' boundaries: m = 0 for BMOD, m = 1 and 2^32 - 1 for the inversions. -/
theorem witness_illegalModulus :
    illegalModulus (cfg 3 3 32 0) (.bmod 1 0 .m) ∧ illegalModulus (cfg 3 1 32 0) (.invp 1 0 .p) ∧
    illegalModulus (cfg 3 1 1 0) (.inv2k 1 0 .q) ∧ ¬ illegalModulus (cfg 3 3 32 1) (.bmod 1 0 .m) ∧
    ¬ illegalModulus (cfg 3 2 32 0) (.invp 1 0 .p) ∧ ¬ illegalModulus (cfg 3 2 2 0) (.inv2k 1 0 .q) ∧
    ¬ illegalModulus (cfg 3 3 0x80000000 0) (.inv2k 1 0 .q) ∧ ¬ illegalModulus (cfg 3 3 32 0) (.conv 1 0 0) := by
  refine ⟨rfl, fun h => ?_, ?_, (by decide : modSel (cfg 3 3 32 1) .m ≠ 0), ?_, ?_, ?_, id⟩
  · exact absurd h.1 (by decide)
  · rintro ⟨k, h1, h31, h⟩
    have : ∀ k, 1 ≤ k → k ≤ 31 → (1 : Nat) ≠ 2 ^ k := by
      intro k hk _
      exact (Nat.one_lt_two_pow (by omega)).ne
    exact this k h1 h31 h
  · exact fun h => h ⟨by decide, fun d h2 hd => absurd hd (Nat.not_lt.mpr h2)⟩
  · exact fun h => h ⟨1, by decide, by decide, by decide⟩
  · exact fun h => h ⟨31, by decide, by decide, by decide⟩

/-- FirstErrorIsReported: each clause's state, word in flight and Unit's turn; N at 0, NMAX + 1, NMAX
and 1. -/
theorem witness_FirstErrorIsReported :
    (let s := (cfg 0 7 32 0).flight 0#32;
      s.unitTurn ∧ s.pending = .cmd 0#32 ∧ decode 0#32 = .illegal .undefinedOp) ∧
    (let s := (cfg 0 7 32 0).flight 0x0C810000#32;
      s.unitTurn ∧ s.pending = .cmd 0x0C810000#32 ∧ decode 0x0C810000#32 = .term (.bmod 1 0 .m) ∧ ¬ s.legalN) ∧
    (let s := (cfg 1025 7 32 0).flight 0x0C810000#32;
      s.unitTurn ∧ s.pending = .cmd 0x0C810000#32 ∧ ¬ s.legalN) ∧
    (let s := (cfg 1024 7 32 0).flight 0x0C810000#32;
      s.unitTurn ∧ s.pending = .cmd 0x0C810000#32 ∧ s.legalN ∧ illegalModulus s (.bmod 1 0 .m)) ∧
    (let s := (cfg 1 7 32 1).flight 0x0C810000#32;
      s.unitTurn ∧ s.pending = .cmd 0x0C810000#32 ∧ s.legalN ∧ ¬ illegalModulus s (.bmod 1 0 .m) ∧ s.err = false) :=
  ⟨⟨⟨rfl, .inl rfl⟩, rfl, by decide⟩, ⟨⟨rfl, .inl rfl⟩, rfl, by decide, by decide⟩,
    ⟨⟨rfl, .inl rfl⟩, rfl, by decide⟩, ⟨⟨rfl, .inl rfl⟩, rfl, by decide, rfl⟩,
    ⟨⟨rfl, .inl rfl⟩, rfl, by decide, (by decide : modSel (cfg 1 7 32 1) .m ≠ 0), rfl⟩⟩

/-! ### Witnesses: ring arithmetic -/

/-- ConvComputesTheRingProduct: V-CONV-4, the least result that fits. -/
theorem witness_ConvComputesTheRingProduct :
    let s := ((cfg 1 7 32 0).load 0 [-4611686018427387904]).load 1 [2]
    s.legalN ∧ ∀ k < s.degree, Fits (ringProduct s.degree (s.coef 0) (s.coef 1) k) := by
  simp only [Fits]; decide

/-- AddComputesThePointwiseSum: the greatest result that fits. -/
theorem witness_AddComputesThePointwiseSum :
    let s := ((cfg 2 7 32 0).load 0 [9223372036854775806, 3]).load 1 [1, -7]
    s.legalN ∧ ∀ k < s.degree, Fits (s.coef 0 k + s.coef 1 k) := by
  simp only [Fits]; decide

/-- UnfitResultRaisesOverflow: V-CONV-3 and V-ADD-3, one past either end. -/
theorem witness_UnfitResultRaisesOverflow :
    let s := (((cfg 1 7 32 0).load 0 [4611686018427387904]).load 1 [2]).flight 0x05020000#32
    let u := (((cfg 1 7 32 0).load 0 [-9223372036854775808]).load 1 [-1]).flight 0x09020000#32
    s.legalN ∧ s.pending = .cmd 0x05020000#32 ∧
    (∃ k < s.degree, ¬ Fits (ringProduct s.degree (s.coef 0) (s.coef 1) k)) ∧
    u.legalN ∧ u.pending = .cmd 0x09020000#32 ∧ (∃ k < u.degree, ¬ Fits (u.coef 0 k + u.coef 1 k)) := by
  simp only [Fits]; decide

/-- BmodBalancesEveryCoefficient, MovCopiesThePrefix, LdcLoadsTheConstant: N = 1 and N = NMAX,
every modulus select nonzero. -/
theorem witness_legal_operands :
    (cfg 1 7 32 1).legalN ∧ (cfg 1024 7 32 1).legalN ∧ (∀ ms ∈ [Ms.p, .q, .m, .two], modSel (cfg 1 7 32 1) ms ≠ 0) ∧
    (Instr.ldc 7 (-4194304)).wellFormed = true := by decide

/-- BalancedResidueByFloorMod: an odd and an even modulus, and m = 1. -/
theorem witness_BalancedResidueByFloorMod :
    (1 ≤ 7 ∧ 7 % 2 = 1 ∧ balmod (-17) 7 = -3) ∧ (1 ≤ 32 ∧ 32 % 2 = 0 ∧ balmod 16 32 = -16) ∧
    (1 ≤ 1 ∧ 1 % 2 = 1 ∧ balmod 5 1 = 0) := by decide

/-- BalancedResidueConsequences: the ends of the ranges. -/
theorem witness_BalancedResidueConsequences :
    Machine.Balanced 32 (-16) ∧ Machine.Balanced 32 15 ∧ ¬ Machine.Balanced 32 16 ∧ Machine.Balanced 7 3 ∧
    ¬ Machine.Balanced 7 (-4) ∧ balmod (-9223372036854775808) 4294967295 = 2147483647 := by
  simp only [Machine.Balanced]; decide

/-- ConvolutionIsARingProduct, RefinementFormula: three polynomials of one length (V-CONV-5). -/
theorem witness_ConvolutionIsARingProduct :
    [1, -2, 0, 3].length = 4 ∧ [2, 0, -1, 1].length = 4 ∧ [-1, 1, 1, 0].length = 4 ∧
    cycConv 4 [1, -2, 0, 3] (cycConv 4 [2, 0, -1, 1] [-1, 1, 1, 0]) = [11, 16, -9, -14] := by decide

/-- ScaleMultipliesByTheConstant: vd = vt, the least constant. -/
theorem witness_ScaleMultipliesByTheConstant :
    let s := (cfg 2 7 32 0).load 1 [7, -3]
    (7 : VReg) ≠ 1 ∧ s.legalN ∧ (Instr.ldc 7 (-4194304)).wellFormed = true ∧
    ∀ k < s.degree, Fits (-4194304 * s.coef 1 k) := by
  simp only [Fits]; decide

/-- SlotsFromNOnAreNotRead: N = 2, and slot 2 differs. -/
theorem witness_SlotsFromNOnAreNotRead :
    let s := (cfg 2 7 32 0).load 1 [7, -3, 9]
    let v := ((cfg 2 7 32 0).load 1 [7, -3, 8]).v
    (∀ r, ∀ k < s.degree, Poly.get (v.reg r) k = s.slot r k) ∧ v ≠ s.v ∧ s.done = false ∧
    after (exec (.mov 6 1) s) (fun t => t.done) = true ∧
    after (exec (.mov 6 1) { s with v := v }) (fun t => t.done) = true := by decide

/-! ### Witnesses: inversion -/

/-- PrimalityCheckIsExact: the command in flight, on a legal and an illegal modulus. -/
theorem witness_PrimalityCheckIsExact :
    let s := (cfg 3 2 4 0).flight 0x10800000#32
    s.legalN ∧ s.pending = .cmd 0x10800000#32 ∧ s.err = false ∧ isPrime (modSel s .p) = true ∧
    isPrime (modSel s .q) = false ∧ after (exec (.invp 1 0 .q) s) (fun t => t.err && t.errcode == 3#4) = true := by
  decide

/-- InverseIsFoundExactlyWhenOneExists: an operand with an inverse (V-INVP-1's), and one without
(V-INVP-4a's). -/
theorem witness_InverseIsFoundExactlyWhenOneExists :
    (1 ≤ 11 ∧ Nat.Prime 3 ∧ 3 < 2 ^ 32 ∧ [1, 0, 0, 1, 0, 0, 0, -1, 0, 0, 0].length = 11) ∧
    invModPrime 11 3 [1, 0, 0, 1, 0, 0, 0, -1, 0, 0, 0] = some [0, 1, -1, 1, -1, 1, -1, 1, 0, 0, 0] ∧
    InverseMod 11 3 (fun k => [1, 0, 0, 1, 0, 0, 0, -1, 0, 0, 0].getD k 0)
      (fun k => [0, 1, -1, 1, -1, 1, -1, 1, 0, 0, 0].getD k 0) ∧
    invModPrime 4 3 [1, 1, 1, 1] = none := by
  refine ⟨⟨by decide, by norm_num, by decide, by decide⟩, by decide, ?_, by decide⟩
  unfold InverseMod; decide

/-- InvpComputesTheInverse, InvpWritesTheReferenceResult: N = 3, p = 3, the operand x. -/
theorem witness_InvpComputesTheInverse :
    let s := (cfg 3 3 32 0).load 0 [0, 1]
    s.legalN ∧ Nat.Prime (modSel s .p) ∧ InverseMod s.degree (modSel s .p) (s.coef 0) (fun k => if k = 2 then 1 else 0) ∧
    isPrime (modSel s .p) = true ∧ invModPrime s.degree (modSel s .p) (src s s.degree 0) = some [0, 0, 1] := by
  refine ⟨by decide, by norm_num [modSel, cfg, State.load, State.setPoly], ?_, by decide, by decide⟩
  unfold InverseMod; decide

/-- The zero polynomial has no inverse. -/
theorem zero_has_no_inverse (s : State) (va : VReg) (m : Nat) (hm : 2 ≤ m) (hn : 1 ≤ s.degree)
    (hz : ∀ k, s.coef va k = 0) : ¬ ∃ h, InverseMod s.degree m (s.coef va) h := by
  rintro ⟨h, hh⟩
  have h0 := hh 0 hn
  simp only [ringProduct, hz, zero_mul, ite_self, Finset.sum_const_zero, oneCoef, if_true] at h0
  have := Int.emod_emod_of_dvd 1 (Int.dvd_refl (m : Int))
  rw [Int.ModEq, Int.zero_emod, Int.emod_eq_of_lt (by decide) (by omega)] at h0
  cases h0

/-- NoInverseRaisesNotInvertible: the zero operand, mod a prime and mod a power of two. -/
theorem witness_NoInverseRaisesNotInvertible :
    let s := (cfg 3 3 32 0).flight 0x10800000#32
    s.legalN ∧ s.pending = .cmd 0x10800000#32 ∧ Nat.Prime (modSel s .p) ∧
    (¬ ∃ h, InverseMod s.degree (modSel s .p) (s.coef 0) h) ∧
    (∃ k, 1 ≤ k ∧ k ≤ 31 ∧ modSel s .q = 2 ^ k) ∧ ¬ ∃ h, InverseMod s.degree 2 (s.coef 0) h :=
  ⟨by decide, rfl, by norm_num [modSel, cfg, State.flight],
    zero_has_no_inverse _ 0 _ (by decide) (by decide) (fun _ => rfl),
    ⟨5, by decide, by decide, by decide⟩, zero_has_no_inverse _ 0 _ (by decide) (by decide) (fun _ => rfl)⟩

/-- PowerOfTwoCheckIsExact: both ends of the legal range, and past them. -/
theorem witness_PowerOfTwoCheckIsExact :
    pow2Exponent 2 = some 1 ∧ pow2Exponent (2 ^ 31) = some 31 ∧ pow2Exponent (2 ^ 32) = none ∧
    ((cfg 3 24 32 0).flight 0x14800000#32).legalN ∧ ((cfg 3 24 32 0).flight 0x14800000#32).err = false ∧
    after (exec (.inv2k 1 0 .p) ((cfg 3 24 32 0).flight 0x14800000#32)) (fun t => t.err && t.errcode == 3#4) = true := by
  decide

/-- IterationCapFormula: the least j with k <= 2^j, at the ends of a row of R156's table. -/
theorem witness_IterationCapFormula : iterationCap 9 = 12 ∧ iterationCap 16 = 12 ∧ 9 ≤ 2 ^ 4 ∧ ∀ d < 4, 2 ^ d < 9 := by
  decide

/-- Inv2kComputesTheInverse, Inv2kWritesTheConvergedIterate, Inv2kModTwoReachesTheCap: N = 3, the
operand x, with m = 4, m = 2^31 and m = 2. -/
theorem witness_Inv2kComputesTheInverse :
    let s := ((cfg 3 2 4 0x80000000).load 0 [0, 1]).flight 0x14808000#32
    s.legalN ∧ s.pending = .cmd 0x14808000#32 ∧ modSel s .q = 2 ^ 2 ∧ modSel s .m = 2 ^ 31 ∧ modSel s .two = 2 ∧
    InverseMod s.degree 2 (s.coef 0) (fun k => if k = 2 then 1 else 0) ∧
    pow2Exponent (modSel s .q) = some 2 ∧ invModPrime s.degree 2 (src s s.degree 0) = some [0, 0, -1] ∧
    newtonLoop s.degree (modSel s .q) (src s s.degree 0) (iterationCap 2) 0 [0, 0, -1] = .converged [0, 0, 1] 1 := by
  refine ⟨by decide, rfl, by decide, by decide, by decide, ?_, by decide, by decide, by decide⟩
  unfold InverseMod; decide

/-! ### Witnesses: bus steps -/

/-- BlockReads, CfgAndReadOnlyWrites, StatusAndCtrlWrites: the Host's turn, idle and busy. -/
theorem witness_BlockAccesses :
    ([0x000#20, 0x00C#20, 0x010#20, 0x01C#20, 0x020#20, 0x024#20, 0x028#20, 0x02C#20].all fun a =>
      decide ((State.queue idle [.host (.read a)]).rstN = true ∧
        (State.queue idle [.host (.read a)]).inputs = .host (.read a) :: [] ∧
        (State.queue idle [.host (.write a 5#32)]).pending = .none ∧
        (State.queue idle [.host (.write a 5#32)]).inputs = .host (.write a 5#32) :: [] ∧
        (State.queue State.reset [.host (.write a 5#32)]).pending ≠ .none)) = true ∧
    (0x80000000#32).getLsbD 31 = true ∧ (0x7FFFFFFF#32).getLsbD 31 = false := by decide

/-- ErrorHaltsUntilAcknowledged: a STATUS write of 4 names ERR alone. -/
theorem witness_ErrorHaltsUntilAcknowledged :
    let s := State.queue { idle with err := true, errcode := 1#4 }
      [.host (.write 0x020#20 1#32), .host (.write 0x024#20 4#32), .host (.write 0x020#20 2#32)]
    s.rstN = true ∧ s.pending = .none ∧ s.err = true ∧ (4#32).getLsbD 2 = true ∧ (4#32).getLsbD 1 = false ∧
    (4#32).getLsbD 3 = false ∧ (4#32).getLsbD 5 = false ∧
    s.inputs = .host (.write 0x020#20 1#32) :: .host (.write 0x024#20 4#32) :: .host (.write 0x020#20 2#32) :: [] := by
  decide

/-- BadAddressIsABusError: the ends of each range; their neighbours are not in it. -/
theorem witness_BadAddressIsABusError :
    ([0x00001#20, 0x0002F#20, 0x00030#20, 0x0FFFC#20, 0x50000#20, 0xFFFFC#20, 0x10003#20].all fun a =>
      decide ((a.toNat % 4 ≠ 0 ∨ (0x00030 ≤ a.toNat ∧ a.toNat ≤ 0x0FFFF) ∨ 0x50000 ≤ a.toNat) ∧
        (State.queue idle [.host (.read a)]).rstN = true)) = true ∧
    ([0x00000#20, 0x0002C#20, 0x10000#20, 0x4FFFC#20].all fun a =>
      decide (¬ (a.toNat % 4 ≠ 0 ∨ (0x00030 ≤ a.toNat ∧ a.toNat ≤ 0x0FFFF) ∨ 0x50000 ≤ a.toNat))) = true := by
  decide

/-- WindowAddressMap, CoefficientReads, CoefficientWrites: the first and last slots of the window,
the last slot below NMAX and the first beyond, idle and busy. -/
theorem witness_WindowAccesses :
    decodeAddr 0x10000#20 = .slot 0 0 .lo ∧ decodeAddr 0x4FFFC#20 = .slot 7 4095 .hi ∧
    decodeAddr 0x11FFC#20 = .slot 0 1023 .hi ∧ decodeAddr 0x12000#20 = .slot 0 1024 .lo ∧
    (let s := State.queue (idle.load 3 [0, -5]) [.host (.write 0x11FFC#20 5#32)];
      s.rstN = true ∧ s.inputs = .host (.write 0x11FFC#20 5#32) :: [] ∧ s.pending = .none ∧ 1023 < s.params.nmax ∧
      Memory.wf s.params.nmax s.v) ∧
    (let s := State.queue State.reset [.host (.read 0x11FFC#20)];
      s.rstN = true ∧ s.inputs = .host (.read 0x11FFC#20) :: [] ∧ s.pending ≠ .none ∧ 1023 < s.params.nmax) ∧
    (let s := State.queue idle [.host (.read 0x12000#20)];
      s.rstN = true ∧ s.inputs = .host (.read 0x12000#20) :: [] ∧ s.params.nmax ≤ 1024) := by decide

/-- TwoHalfWritesStoreACoefficient: both ends of the range, the last slot, either order. -/
theorem witness_TwoHalfWritesStoreACoefficient :
    let lo : Input := .host (.write (BitVec.ofNat 20 (0x10000 + 7 * 0x8000 + 1023 * 8)) (BitVec.ofInt 32 (-2 ^ 63)))
    let hi : Input :=
      .host (.write (BitVec.ofNat 20 (0x10000 + 7 * 0x8000 + 1023 * 8 + 4)) (BitVec.ofInt 32 (-2 ^ 63 / 2 ^ 32)))
    Fits (-2 ^ 63) ∧ Fits (2 ^ 63 - 1) ∧ 1023 < 4096 ∧ 1023 < idle.params.nmax ∧
    (State.queue idle [lo, hi]).rstN = true ∧ (State.queue idle [lo, hi]).pending = .none ∧
    Memory.wf idle.params.nmax idle.v ∧ (State.queue idle [lo, hi]).inputs = lo :: hi :: [] ∧
    (State.queue idle [hi, lo]).inputs = hi :: lo :: [] := by
  simp only [Fits]; decide

/-! ### Witnesses: interrupt, reset, rules of the whole machine -/

/-- The two enabled words of a step that raise the interrupt: a completion, a CTRL write. -/
theorem witness_InterruptLine :
    (State.irq (State.flight { idle with ieDone := true } 0x1F800003#32) = false ∧
      after (step (State.flight { idle with ieDone := true } 0x1F800003#32)) State.irq = true) ∧
    (State.irq (State.queue { idle with done := true } [.host (.write 0x028#20 1#32)]) = false ∧
      after (step (State.queue { idle with done := true } [.host (.write 0x028#20 1#32)])) State.irq = true) := by
  decide

/-- ResetValues: each of the three reset steps, its schedule written out. -/
theorem witness_ResetValues :
    (State.queue idle [.host (.write 0x028#20 0x80000000#32)]).resetTurn ∧
    (State.queue idle [.rstN false]).resetTurn ∧
    (State.queue { State.reset with rstN := false } [.rstN true]).resetTurn :=
  ⟨.inl ⟨0x80000000#32, ⟨rfl, [], rfl⟩, by decide⟩, .inr ⟨false, [], rfl, by decide⟩, .inr ⟨true, [], rfl, by decide⟩⟩

/-- HeldInReset: each of the inputs. -/
theorem witness_HeldInReset :
    ∀ is ∈ [[], [.unit], [.rstN true], [Input.host (.read 0x000#20)]],
      (State.queue { State.reset with rstN := false } is).rstN = false ∧
      (State.queue { State.reset with rstN := false } is).inputs = is := by decide

/-- InitCompletion: INIT in flight on the Unit's turn, by default and scheduled, and on the Host's. -/
theorem witness_InitCompletion :
    (State.queue State.reset [.unit]).unitTurn ∧
    State.reset.unitTurn ∧ State.reset.pending = .init ∧
    (State.queue State.reset [.host (.write 0x010#20 4#32)]).hostWrites 0x010#20 4#32 ∧
    (State.queue State.reset [.host (.read 0x11FFC#20)]).hostReads 0x11FFC#20 ∧
    decodeAddr 0x11FFC#20 = .slot 0 1023 .hi ∧ 1023 < State.reset.params.nmax :=
  ⟨⟨rfl, .inr ⟨[], rfl⟩⟩, ⟨rfl, .inl rfl⟩, rfl, ⟨rfl, [], rfl⟩, ⟨rfl, [], rfl⟩, by decide, by decide⟩

/-- WritersOfAPolynomialRegister: a slot changes by a command, by a window write, by a reset. -/
theorem witness_WritersOfAPolynomialRegister :
    after (step (idle.flight 0x1F800003#32)) (fun t => t.slot 7 0 != idle.slot 7 0) = true ∧
    after (step (State.queue idle [.host (.write 0x28000#20 9#32)])) (fun t => t.slot 3 0 != idle.slot 3 0) = true ∧
    after (step (State.queue (idle.load 3 [9]) [.rstN false])) (fun t => t.slot 3 0 != (idle.load 3 [9]).slot 3 0) = true := by
  decide

/-- BusyTransitions: BUSY rises by an accepted write and falls by the Unit's step; a command in
flight stays over a read. -/
theorem witness_BusyTransitions :
    (idle.busy = false ∧ after (step (State.queue idle [.host (.write 0x020#20 0#32)])) State.busy = true) ∧
    (State.reset.busy = true ∧ after (step State.reset) (fun t => !t.busy) = true) ∧
    after (step (State.queue (idle.flight 0#32) [.host (.read 0x024#20)])) (fun t => t.pending == .cmd 0#32) = true := by
  decide

/-- StickyRejectionFlags: each flag is set and cleared by some step. -/
theorem witness_StickyRejectionFlags :
    after (step (State.queue State.reset [.host (.write 0x020#20 0#32)])) (fun t => t.cmdrej) = true ∧
    after (step (State.queue { idle with cmdrej := true } [.host (.write 0x024#20 8#32)])) (fun t => !t.cmdrej) = true ∧
    after (step (State.queue State.reset [.host (.write 0x01C#20 0#32)])) (fun t => t.accerr) = true ∧
    after (step (State.queue State.reset [.host (.read 0x11FFC#20)])) (fun t => t.accerr) = true ∧
    after (step (State.queue { idle with accerr := true } [.host (.write 0x024#20 32#32)])) (fun t => !t.accerr) = true := by
  decide

/-- WritersOfTheControlRegisters: each register changes in some step that is no reset. -/
theorem witness_WritersOfTheControlRegisters :
    (¬ (State.queue { idle with done := true } [.host (.write 0x020#20 5#32)]).resetTurn ∧ ¬ (idle.flight 1#32).resetTurn) ∧
    after (step (State.queue { idle with done := true } [.host (.write 0x020#20 5#32)]))
      (fun t => t.cmdLast != idle.cmdLast && !t.done) = true ∧
    after (step (idle.flight 0x1F800003#32)) (fun t => t.done) = true ∧
    after (step (idle.flight 0x00000001#32)) (fun t => t.err && t.errinfo == 1#32) = true ∧
    after (step (State.queue { idle with err := true, errcode := 1#4 } [.host (.write 0x024#20 4#32)])) (fun t => !t.err) = true ∧
    after (step (State.queue idle [.host (.write 0x028#20 2#32)])) (fun t => t.ieErr && !t.ieDone) = true ∧
    after (step (((cfg 4 7 32 0).load 0 [1]).flight 0x14808000#32)) (fun t => t.iters == 3#32) = true := by
  refine ⟨⟨?_, ?_⟩, by decide⟩
  · rintro (⟨w, ⟨-, rest, h⟩, -⟩ | ⟨level, rest, h, -⟩) <;> cases h
  · rintro (⟨w, ⟨-, rest, h⟩, -⟩ | ⟨level, rest, h, -⟩) <;> cases h

/-- InFlightOperandsAreFrozen: a command in flight on the Host's turn. -/
theorem witness_InFlightOperandsAreFrozen :
    let s := State.queue (idle.flight 0#32) [.host (.write 0x010#20 4#32)]
    s.pending = .cmd 0#32 ∧ after (step s) (fun t => t.accerr) = true ∧ ¬ s.unitTurn ∧ ¬ s.resetTurn := by
  refine ⟨rfl, by decide, ?_, ?_⟩
  · rintro ⟨-, h | ⟨rest, h⟩⟩ <;> cases h
  · rintro (⟨w, ⟨-, rest, h⟩, -⟩ | ⟨level, rest, h, -⟩) <;> cases h

/-- StepKeepsTheStateInvariant, ResetMeetsTheStateInvariant: the reference part, and both ends of
NMAX's range. -/
theorem reset_inv :
    State.reset.Inv ∧ Params.ok { nmax := 1, prauBase := 0, prauIrq := 0 } ∧
    Params.ok { nmax := 4096, prauBase := 0, prauIrq := 0 } := by
  exact ⟨⟨by decide, by decide, fun _ => rfl, nofun, nofun, nofun, fun _ => ⟨rfl, rfl, rfl⟩, nofun⟩,
    by decide, by decide⟩

/-- A state with a command in flight and data in its registers meets the invariant too. -/
theorem flight_inv : (((cfg 4 7 32 0).load 0 [1, 0, -1]).flight 0x14808000#32).Inv :=
  ⟨by decide, by decide, fun _ => rfl, nofun, nofun, fun _ h => ⟨Pending.cmd.inj h, rfl, rfl⟩, nofun, nofun⟩

end Sys2Proof.Tests
end

section
/-! Every step keeps the state invariant. `State.Inv` reads eight fields of the state; an
update that leaves those alone keeps it, and each update that does not has a lemma of its own.
The Unit's turn, a bus write and the step are case analyses over what Laws/Step says they do. -/

namespace Sys2Proof.Machine

/-! ### Updates outside the invariant's fields -/

/-- The fields that `State.Inv` speaks of. -/
def State.invView (s : State) : Params × Memory × Word × Bool × Bool × BitVec 4 × Pending × Bool :=
  (s.params, s.v, s.cmdLast, s.done, s.err, s.errcode, s.pending, s.rstN)

/-- The invariant depends on its own fields alone. -/
theorem State.Inv.of_invView_eq {s t : State} (h : s.Inv) (e : t.invView = s.invView) : t.Inv := by
  simp only [State.invView, Prod.mk.injEq] at e
  obtain ⟨hparams, hv, hlast, hdone, herr, hcode, hpending, hport⟩ := e
  obtain ⟨nmax, mem, idle, range, doneErr, flight, init, held⟩ := h
  rw [← hparams] at nmax mem
  rw [← hv] at mem init
  rw [← herr] at idle range doneErr flight init
  rw [← hcode] at idle range
  rw [← hdone] at doneErr flight init
  rw [← hpending] at flight init held
  rw [← hlast] at flight
  rw [← hport] at held
  exact ⟨nmax, mem, idle, range, doneErr, flight, init, held⟩

theorem inv_setInputs {s : State} (h : s.Inv) (rest : List Input) : (setInputs rest s).Inv :=
  h.of_invView_eq rfl

theorem inv_setBus {s : State} (h : s.Inv) (b : Option BusAnswer) : (setBus b s).Inv :=
  h.of_invView_eq rfl

theorem inv_dropAccess {s : State} (h : s.Inv) : (dropAccess s).Inv :=
  h.of_invView_eq rfl

/-- Staging ITERS keeps the invariant. -/
theorem inv_of_staged {s u : State} {c : Instr} (h : s.Inv) (hs : Staged c s u) : u.Inv := by
  obtain rfl | ⟨vd, va, ms, n, -, rfl⟩ := hs
  · exact h
  · exact h.of_invView_eq rfl

/-- Staging ITERS keeps what is in flight and the parameters. -/
theorem pending_params_of_staged {s u : State} {c : Instr} (hs : Staged c s u) :
    u.pending = s.pending ∧ u.params = s.params := by
  obtain rfl | ⟨vd, va, ms, n, -, rfl⟩ := hs <;> exact ⟨rfl, rfl⟩

theorem inv_of_cfgEffect {s t : State} {x : Word} {a : BusAddr} (h : s.Inv) (hc : CfgEffect x s a t) :
    t.Inv := by
  cases hc with
  | cfgN => exact h.of_invView_eq rfl
  | cfgP => exact h.of_invView_eq rfl
  | cfgQ => exact h.of_invView_eq rfl
  | cfgM => exact h.of_invView_eq rfl

/-! ### The coefficient memory -/

/-- A canonical register may be written at any time but during INIT, which keeps every register
clear (R241). -/
theorem inv_setPoly {s : State} (h : s.Inv) (hinit : s.pending ≠ .init) (r : VReg) {p : Poly}
    (hp : Poly.wfFrom 0 s.params.nmax p = true) : (s.setPoly r p).Inv :=
  { h with
    mem_wf := Memory.wf_set h.mem_wf hp
    init_flight := fun hi => absurd hi hinit }

/-- A window write reaches the memory only while nothing is in flight (R70). -/
theorem inv_setSlot {s : State} (h : s.Inv) (hidle : s.pending = .none) (r : VReg) {i : Nat} (c : Coeff)
    (hi : i < s.params.nmax) : (s.setSlot r i c).Inv :=
  inv_setPoly h (by simp [hidle]) r (Poly.wfFrom_set (h.mem_wf r) c (Nat.zero_le i) hi)

/-! ### Reset, issue and acknowledgement -/

/-- The reset step meets the invariant at either level of the port, whatever the state (R240). -/
theorem inv_setPort_resetStep {s : State} (hnmax : s.params.ok) (level : Bool) :
    (setPort level (resetStep s)).Inv where
  nmax_range := hnmax
  mem_wf := Memory.wf_cleared _
  errcode_idle _ := rfl
  errcode_range := nofun
  done_err := nofun
  cmd_flight := nofun
  init_flight _ := ⟨rfl, rfl, rfl⟩
  held_init _ := rfl

/-- A command is accepted only while idle with ERR = 0, and DONE falls (R200). -/
theorem inv_acceptCmd {s : State} (h : s.Inv) (w : Word) (hidle : s.pending = .none) (herr : s.err = false) :
    (acceptCmd w s).Inv :=
  { h with
    done_err := nofun
    cmd_flight := fun _ hw => ⟨Pending.cmd.inj hw, rfl, herr⟩
    init_flight := nofun
    held_init := fun hr => nomatch hidle.symm.trans (h.held_init hr) }

/-- A write to STATUS only clears flags, and ERRCODE falls with ERR (R29, R32). -/
theorem inv_writeStatus {s : State} (h : s.Inv) (x : Word) : (writeStatus x s).Inv where
  nmax_range := by simpa using h.nmax_range
  mem_wf := by simpa using h.mem_wf
  errcode_idle he := by
    cases hx : x[2] with
    | true => simp [hx]
    | false => simpa [hx] using h.errcode_idle (by simpa [hx] using he)
  errcode_range he := by
    obtain ⟨herr, hx⟩ : s.err = true ∧ x[2] = false := by simpa using he
    simpa [hx] using h.errcode_range herr
  done_err := by
    rintro ⟨hd, he⟩
    exact h.done_err ⟨(by simpa using hd : _ ∧ _).1, (by simpa using he : _ ∧ _).1⟩
  cmd_flight w hw := by
    obtain ⟨hlast, hdone, herr⟩ := h.cmd_flight w (by simpa using hw)
    simp [hlast, hdone, herr]
  init_flight hi := by
    obtain ⟨hv, hdone, herr⟩ := h.init_flight (by simpa using hi)
    simp [hv, hdone, herr]
  held_init hr := by simpa using h.held_init (by simpa using hr)

/-! ### The end of what is in flight -/

/-- INIT completes only at rst_n = 1 (R240, R242). -/
theorem inv_initDone {s : State} (h : s.Inv) (hr : s.rstN = true) : (initDone s).Inv :=
  { h with
    cmd_flight := nofun
    init_flight := nofun
    held_init := fun hr' => nomatch hr.symm.trans hr' }

/-- While a command is in flight the PRAU is not held in reset (R240). -/
theorem not_held_of_cmd {s : State} {w : Word} (h : s.Inv) (hw : s.pending = .cmd w) : ¬ s.rstN = false :=
  fun hr => nomatch hw.symm.trans (h.held_init hr)

/-- The code of every error is one of 1 .. 6 (R204). -/
theorem codeOf_range (e : ErrCode) : 1 ≤ (codeOf e).toNat ∧ (codeOf e).toNat ≤ 6 := by
  cases e <;> decide

/-- A command in flight that succeeds: ERR is still 0 when DONE rises (R202). -/
theorem inv_completeOk {s : State} {w : Word} (h : s.Inv) (hw : s.pending = .cmd w) : (completeOk s).Inv :=
  { h with
    done_err := fun ⟨_, he⟩ => nomatch (h.cmd_flight w hw).2.2.symm.trans he
    cmd_flight := nofun
    init_flight := nofun
    held_init := fun hr => absurd hr (not_held_of_cmd (s := s) h hw) }

/-- A command in flight that fails: DONE is still 0 when ERR rises (R203). -/
theorem inv_raiseError {s : State} {w : Word} (h : s.Inv) (hw : s.pending = .cmd w) (e : ErrCode) :
    (raiseError e s).Inv :=
  { h with
    errcode_idle := nofun
    errcode_range := fun _ => codeOf_range e
    done_err := fun ⟨hd, _⟩ => nomatch (h.cmd_flight w hw).2.1.symm.trans hd
    cmd_flight := nofun
    init_flight := nofun
    held_init := fun hr => absurd hr (not_held_of_cmd (s := s) h hw) }

/-- A command in flight that writes back a polynomial that fits in its register (R121). -/
theorem inv_completeOk_writeBack {s : State} {w : Word} (h : s.Inv) (hw : s.pending = .cmd w) (vd : VReg)
    {res : List Int} (hlen : res.length ≤ s.params.nmax) : (completeOk (writeBack vd res s)).Inv :=
  inv_completeOk (inv_setPoly h (by simp [hw]) vd (Poly.wfFrom_ofList (by simpa using hlen))) hw

/-! ### The agents -/

/-- The Unit's turn keeps the invariant. -/
theorem inv_unitTurn {s t : State} (h : s.Inv) (hu : s.unitTurn)
    (ht : unitStep (setInputs s.inputs.tail s) = .next t) : t.Inv := by
  have hs : (setInputs s.inputs.tail s).Inv := inv_setInputs h _
  obtain ⟨-, rfl⟩ | ⟨-, rfl⟩ | ⟨w, hw, ⟨-, -, rfl⟩ | ⟨c, u, -, hst, hend⟩⟩ := unitTurn_cases hu ht
  · exact hs
  · exact inv_initDone hs hu.1
  · exact inv_raiseError hs hw _
  · have hinv : u.Inv := inv_of_staged hs hst
    obtain ⟨hpending, hparams⟩ := pending_params_of_staged hst
    obtain ⟨e, rfl⟩ | ⟨⟨-, hN⟩, res, hlen, rfl⟩ := hend
    · exact inv_raiseError hinv (hpending.trans hw) e
    · exact inv_completeOk_writeBack hinv (hpending.trans hw) _ (by rw [hlen, hparams]; exact hN)

/-- A bus write keeps the invariant. -/
theorem inv_of_writeEffect {s t : State} {a : BusAddr} {x : Word} (h : s.Inv) (ht : WriteEffect a x s t) :
    t.Inv := by
  cases ht with
  | nothing => exact h
  | dropped => exact inv_dropAccess h
  | cfg _ hc => exact inv_of_cfgEffect h hc
  | rejected => exact h.of_invView_eq rfl
  | accepted _ hb he => exact inv_acceptCmd h x (busy_eq_false.1 hb) he
  | status => exact inv_writeStatus h x
  | reset => exact inv_setPort_resetStep h.nmax_range s.rstN
  | enables => exact h.of_invView_eq rfl
  | slot _ hi hb => exact inv_setSlot h (busy_eq_false.1 hb) _ _ hi

/-- Settles O59, by cases on what a step can do. -/
theorem stepKeepsTheStateInvariant : Obligations.StepKeepsTheStateInvariant := by
  intro s t h hstep
  have hs : (setInputs s.inputs.tail s).Inv := inv_setInputs h _
  cases step_effect hstep with
  | unit hu ht => exact inv_unitTurn h hu ht
  | held => exact inv_setBus hs _
  | read => exact inv_setBus hs _
  | readDropped => exact inv_setBus (inv_dropAccess hs) _
  | write _ ht => exact inv_setBus (inv_of_writeEffect hs ht) _
  | portKept => exact hs
  | portReset level => exact inv_setBus (inv_setPort_resetStep hs.nmax_range level) _

end Sys2Proof.Machine
end

section
/-! Everything a step can do to the architectural state (R20), with the ports (the reset level,
the schedule, the bus answer) split off: the claims about who writes a field are case analyses
over this one list. -/

namespace Sys2Proof.Machine

/-! ### The ports -/

/-- The ports of s take these values; the architectural state is left alone. -/
def setPorts (level : Bool) (rest : List Input) (b : Option BusAnswer) (s : State) : State :=
  setBus b (setPort level (setInputs rest s))

section Ports

variable (level : Bool) (rest : List Input) (b : Option BusAnswer) (s : State)

@[simp] theorem setPorts_v : (setPorts level rest b s).v = s.v := rfl
@[simp] theorem setPorts_cfgN : (setPorts level rest b s).cfgN = s.cfgN := rfl
@[simp] theorem setPorts_cfgP : (setPorts level rest b s).cfgP = s.cfgP := rfl
@[simp] theorem setPorts_cfgQ : (setPorts level rest b s).cfgQ = s.cfgQ := rfl
@[simp] theorem setPorts_cfgM : (setPorts level rest b s).cfgM = s.cfgM := rfl
@[simp] theorem setPorts_cmdLast : (setPorts level rest b s).cmdLast = s.cmdLast := rfl
@[simp] theorem setPorts_done : (setPorts level rest b s).done = s.done := rfl
@[simp] theorem setPorts_err : (setPorts level rest b s).err = s.err := rfl
@[simp] theorem setPorts_cmdrej : (setPorts level rest b s).cmdrej = s.cmdrej := rfl
@[simp] theorem setPorts_accerr : (setPorts level rest b s).accerr = s.accerr := rfl
@[simp] theorem setPorts_errcode : (setPorts level rest b s).errcode = s.errcode := rfl
@[simp] theorem setPorts_ieDone : (setPorts level rest b s).ieDone = s.ieDone := rfl
@[simp] theorem setPorts_ieErr : (setPorts level rest b s).ieErr = s.ieErr := rfl
@[simp] theorem setPorts_iters : (setPorts level rest b s).iters = s.iters := rfl
@[simp] theorem setPorts_errinfo : (setPorts level rest b s).errinfo = s.errinfo := rfl
@[simp] theorem setPorts_pending : (setPorts level rest b s).pending = s.pending := rfl
@[simp] theorem setPorts_params : (setPorts level rest b s).params = s.params := rfl
@[simp] theorem setPorts_rstN : (setPorts level rest b s).rstN = level := rfl
@[simp] theorem setPorts_inputs : (setPorts level rest b s).inputs = rest := rfl
@[simp] theorem setPorts_bus : (setPorts level rest b s).bus = b := rfl

end Ports

/-- A write to STATUS does not look at the schedule. -/
theorem writeStatus_setInputs (x : Word) (rest : List Input) (s : State) :
    writeStatus x (setInputs rest s) = setInputs rest (writeStatus x s) := by
  unfold writeStatus
  split <;> rfl

/-! ### The architectural effect of a step -/

/-- Everything a step from s can do to the architectural state. -/
inductive ArchEffect (s : State) : State → Prop where
  /-- Nothing: a read, a write without effect, an idle Unit, a port without an edge. -/
  | nothing : ArchEffect s s
  /-- The reset step (R240). -/
  | reset (hr : s.resetTurn) : ArchEffect s (resetStep s)
  /-- The end of INIT (R242). -/
  | initDone (hu : s.unitTurn) (hp : s.pending = .init) : ArchEffect s (initDone s)
  /-- A command that succeeds (R202). -/
  | completed {w n : Word} {c : Instr} (res : List Int) (hu : s.unitTurn) (hp : s.pending = .cmd w)
    (hd : decode w = .term c) (hn : n = s.iters ∨ isInv2k c) :
    ArchEffect s (completeOk (writeBack c.dest res { s with iters := n }))
  /-- A command that fails, or a word that is none (R203, R97, R98). -/
  | failed {w n : Word} (e : ErrCode) (hu : s.unitTurn) (hp : s.pending = .cmd w)
    (hn : n = s.iters ∨ ∃ c, decode w = .term c ∧ isInv2k c) : ArchEffect s (raiseError e { s with iters := n })
  /-- A window read dropped while busy (R70). -/
  | readDropped {a : BusAddr} (hh : s.hostReads a) (hb : s.busy = true)
    (ha : 0x10000 ≤ a.toNat ∧ a.toNat ≤ 0x4FFFF) : ArchEffect s (dropAccess s)
  /-- The Host's write. -/
  | write {a : BusAddr} {x : Word} {t : State} (hh : s.hostWrites a x) (h : WriteEffect a x s t) : ArchEffect s t

/-- A bus write has the same effect on a state whose schedule is other. -/
theorem WriteEffect.of_setInputs {a : BusAddr} {x : Word} {rest : List Input} {s t : State}
    (h : WriteEffect a x (setInputs rest s) t) : ∃ u, WriteEffect a x s u ∧ t = setInputs rest u := by
  cases h with
  | nothing => exact ⟨_, .nothing, rfl⟩
  | dropped hb ha => exact ⟨_, .dropped hb ha, rfl⟩
  | cfg hb h =>
    cases h with
    | cfgN => exact ⟨_, .cfg hb .cfgN, rfl⟩
    | cfgP => exact ⟨_, .cfg hb .cfgP, rfl⟩
    | cfgQ => exact ⟨_, .cfg hb .cfgQ, rfl⟩
    | cfgM => exact ⟨_, .cfg hb .cfgM, rfl⟩
  | rejected ha hb => exact ⟨_, .rejected ha hb, rfl⟩
  | accepted ha hb he => exact ⟨_, .accepted ha hb he, rfl⟩
  | status ha => exact ⟨_, .status ha, writeStatus_setInputs x rest s⟩
  | reset ha hx => exact ⟨_, .reset ha hx, rfl⟩
  | enables ha hx => exact ⟨_, .enables ha hx, rfl⟩
  | slot hd hi hb => exact ⟨_, .slot hd hi hb, rfl⟩

/-- Staging ITERS leaves every other field alone, and only an INV2K does it (R37). -/
theorem Staged.frame {c : Instr} {s u : State} (h : Staged c s u) :
    ∃ n, u = { s with iters := n } ∧ (n = s.iters ∨ isInv2k c) := by
  obtain rfl | ⟨vd, va, ms, n, rfl, rfl⟩ := h
  · exact ⟨u.iters, rfl, .inl rfl⟩
  · exact ⟨_, rfl, .inr trivial⟩

/-- The spec lemma of the Unit's turn, for the architectural state. -/
theorem unitTurn_arch {s t : State} (hu : s.unitTurn) (h : unitStep (setInputs s.inputs.tail s) = .next t) :
    ∃ u, ArchEffect s u ∧ t = setInputs s.inputs.tail u := by
  obtain ⟨-, rfl⟩ | ⟨hp, rfl⟩ | ⟨w, hw, ⟨-, -, rfl⟩ | ⟨c, u, hd, hst, hend⟩⟩ := unitTurn_cases hu h
  · exact ⟨_, .nothing, rfl⟩
  · exact ⟨_, .initDone hu hp, rfl⟩
  · exact ⟨_, .failed .illegalCmd hu hw (.inl rfl), rfl⟩
  · obtain ⟨n, rfl, hn⟩ := hst.frame
    obtain ⟨e, rfl⟩ | ⟨-, res, -, rfl⟩ := hend
    · exact ⟨_, .failed e hu hw (hn.imp_right fun hc => ⟨c, hd, hc⟩), rfl⟩
    · exact ⟨_, .completed res hu hw hd hn, rfl⟩

/-- The spec lemma of a step, for the architectural state. -/
theorem step_arch {s t : State} (h : step s = .next t) :
    ∃ u level rest b, ArchEffect s u ∧ t = setPorts level rest b u := by
  suffices hs : ∃ u, ArchEffect s u ∧ t = setPorts t.rstN t.inputs t.bus u by
    obtain ⟨u, hu, ht⟩ := hs
    exact ⟨u, _, _, _, hu, ht⟩
  cases step_effect h with
  | unit hu ht =>
    obtain ⟨u, hu', rfl⟩ := unitTurn_arch hu ht
    exact ⟨u, hu', rfl⟩
  | held => exact ⟨s, .nothing, rfl⟩
  | read => exact ⟨s, .nothing, rfl⟩
  | readDropped hh hb ha => exact ⟨_, .readDropped hh hb ha, rfl⟩
  | write hh ht =>
    obtain ⟨u, hu, rfl⟩ := ht.of_setInputs
    exact ⟨u, .write hh hu, rfl⟩
  | portKept => exact ⟨s, .nothing, rfl⟩
  | portReset level hr => exact ⟨_, .reset hr, rfl⟩

end Sys2Proof.Machine
end

section
/-! What one agent's turn does to the step: the Host's access of a register of the block (R64), the
Unit's step, the reset step; and the bits of STATUS. -/

namespace Sys2Proof.Machine

/-! ### The Host's access of a register of the block -/

/-- A write of a register of the block completes with err = 0 and does what R64 says of it. -/
theorem step_blockWrite {s : State} {rest : List Input} {x : Word} (reg : BlockReg) (hr : s.rstN = true)
    (hin : s.inputs = .host (.write (blockAddr reg) x) :: rest) :
    step s = .next (setBus (some (.write false)) (blockWrite reg x (setInputs rest s))) := by
  rw [step_host hin, hostStep_live _ (by simpa using hr)]
  simp only [transact, busWrite, decodeAddr_blockAddr]

/-- A read of a register of the block answers its value and changes nothing (R64). -/
theorem step_blockRead {s : State} {rest : List Input} (reg : BlockReg) (hr : s.rstN = true)
    (hin : s.inputs = .host (.read (blockAddr reg)) :: rest) :
    step s = .next (setBus (some (.read (blockValue s reg) false)) (setInputs rest s)) := by
  rw [step_host hin, hostStep_live _ (by simpa using hr)]
  simp only [transact, busRead, decodeAddr_blockAddr]
  cases reg <;> rfl

theorem writeCfg_idle {s : State} (f : State → State) (h : s.pending = .none) : writeCfg f s = f s := by
  simp [writeCfg, busy_eq_false.2 h]

theorem writeCfg_busy {s : State} (f : State → State) (h : s.pending ≠ .none) : writeCfg f s = dropAccess s := by
  simp [writeCfg, busy_eq_true.2 h]

theorem issueCmd_rejected {s : State} (w : Word) (h : s.busy = true ∨ s.err = true) : issueCmd w s = rejectCmd s := by
  simp [issueCmd, h]

/-- Accepted or rejected, a CMD write with ERR = 0 leaves BUSY = 1 (R200, R201). -/
theorem busy_issueCmd {s : State} (w : Word) (h : s.err = false) : (issueCmd w s).busy = true := by
  cases hb : s.busy with
  | true => rw [issueCmd_rejected w (.inl hb)]; exact hb
  | false => simp [issueCmd, hb, h, busy_eq_true]

/-- A write to STATUS as one update of the five W1C fields (R29, R32). -/
theorem writeStatus_eq (x : Word) (s : State) : writeStatus x s = { s with
    done := if x.getLsbD 1 then false else s.done
    err := if x.getLsbD 2 then false else s.err
    errcode := if x.getLsbD 2 then 0#4 else s.errcode
    cmdrej := if x.getLsbD 3 then false else s.cmdrej
    accerr := if x.getLsbD 5 then false else s.accerr } := by
  have hw1c (field bit : Bool) : w1c field bit = if bit then false else field := by
    cases bit <;> simp [w1c]
  simp only [writeStatus, hw1c]
  cases x.getLsbD 2 <;> rfl

theorem writeCtrl_enables {x : Word} (s : State) (h : x.getLsbD 31 = false) :
    writeCtrl x s = setEnables (x.getLsbD 0) (x.getLsbD 1) s := by
  simp only [writeCtrl, h, Bool.false_eq_true, if_false]

theorem writeCtrl_reset {x : Word} (s : State) (h : x.getLsbD 31 = true) : writeCtrl x s = resetStep s := by
  simp only [writeCtrl, h, if_true]

/-! ### The Unit's turn and the reset step -/

theorem step_unitTurn {s : State} (h : s.unitTurn) : step s = unitStep (setInputs s.inputs.tail s) := by
  obtain ⟨-, hin | ⟨rest, hin⟩⟩ := h
  · rw [step_empty hin, hin, List.tail_nil, ← hin]
    rfl
  · rw [step_unit hin, hin, List.tail_cons]

/-- Each of the three resets takes the reset step; only the ports tell them apart (R240). -/
theorem step_resetTurn {s : State} (h : s.resetTurn) :
    ∃ level b, step s = .next (setPorts level s.inputs.tail b (resetStep s)) ∧
      ((∃ w, s.hostWrites 0x028#20 w) → b = some (.write false) ∧ level = true) ∧
      (∀ rest, s.inputs = .rstN false :: rest → b = none ∧ level = false) ∧
      (∀ rest, s.inputs = .rstN true :: rest → b = s.bus ∧ level = true) := by
  obtain ⟨w, ⟨hr, rest, hin⟩, hw⟩ | ⟨level, rest, hin, hedge⟩ := h
  · refine ⟨s.rstN, some (.write false), ?_, fun _ => ⟨rfl, hr⟩, by simp [hin], by simp [hin]⟩
    rw [step_blockWrite .ctrl hr hin, blockWrite, writeCtrl_reset _ hw, hin]
    rfl
  · have hno : ¬ ∃ w, s.hostWrites 0x028#20 w := by simp [State.hostWrites, hin]
    cases level with
    | false => exact ⟨false, none, by rw [step_rstN hin, hin]; rfl, (absurd · hno), by simp, by simp [hin]⟩
    | true =>
      have hr : s.rstN = false := by simpa using hedge
      refine ⟨true, s.bus, ?_, (absurd · hno), by simp [hin], by simp⟩
      rw [step_rstN hin, setRstN_release (by simpa using hr), hin]
      rfl

/-! ### STATUS -/

/-- Bits 7:0 of STATUS, from bit 0 up (R29). -/
theorem getLsbD_statusWord_low (s : State) (k : Fin 8) : (statusWord s).getLsbD k =
    #v[s.busy, s.done, s.err, s.cmdrej, paramsValid s.cfgP s.cfgQ, s.accerr, false, false][k] := by
  simp only [statusWord, BitVec.getLsbD_append, BitVec.getLsbD_ofBool, BitVec.getLsbD_zero]
  fin_cases k <;> simp

/-- The bits of STATUS from 8 up are those of ERRCODE (R29). -/
theorem getLsbD_statusWord_high (s : State) (k : Nat) :
    (statusWord s).getLsbD (8 + k) = s.errcode.getLsbD k := by
  simp only [statusWord, BitVec.getLsbD_append, BitVec.getLsbD_ofBool, BitVec.getLsbD_zero, Nat.add_comm 8 k]
  by_cases hk : k < 4
  · simp [hk]
  · simp [hk, BitVec.getLsbD_of_ge s.errcode k (by omega)]

/-- The reset values of CFG_P and CFG_Q (R42) are valid parameters (R161). -/
theorem paramsValid_reset : paramsValid 7#32 0x00100000#32 = true := by decide

/-- STATUS right after the reset step and right after INIT (R42). -/
theorem statusWord_of_reset (level : Bool) (rest : List Input) (b : Option BusAnswer) (s : State) :
    statusWord (setPorts level rest b (resetStep s)) = 0x00000011#32 ∧
    statusWord (initDone (setPorts level rest b (resetStep s))) = 0x00000010#32 := by
  simp [statusWord, paramsValid_reset, State.busy]

end Sys2Proof.Machine
end

section
/-! The tier 1 claims about the register block and reset. -/

namespace Sys2Proof.Machine

open Host.Outcome

/-- Settles O39: a read of STATUS answers the STATUS word, whose bit 4 is R161's check. -/
theorem paramsValidIsComputed : Obligations.ParamsValidIsComputed :=
  ⟨fun s _ hr hin => ⟨statusWord s, step_blockRead .status hr hin,
      (getLsbD_statusWord_low s 4).trans (Bool.decide_and _ _).symm⟩,
    fun p => (getLsbD_statusWord_low (State.resetWith p) 4).trans
      (show paramsValid (State.resetWith p).cfgP (State.resetWith p).cfgQ = true from paramsValid_reset)⟩

/-- Settles O41: the low byte bit by bit, ERRCODE and the zeros above it together. -/
theorem statusBits : Obligations.StatusBits := by
  intro s
  have bit := getLsbD_statusWord_low s
  have hbusy : s.busy = decide (s.pending ≠ .none) := by
    rw [Bool.eq_iff_iff, busy_eq_true, decide_eq_true_iff]
  refine ⟨(bit 0).trans hbusy, bit 1, bit 2, bit 3, bit 5, fun k _ => getLsbD_statusWord_high s k, fun k hk => ?_⟩
  obtain rfl | rfl | hk := hk
  · exact bit 6
  · exact bit 7
  · obtain ⟨j, rfl⟩ := Nat.exists_eq_add_of_le (show 8 ≤ k by omega)
    rw [getLsbD_statusWord_high, BitVec.getLsbD_of_ge _ _ (by omega)]

/-- Settles O42, register by register: a CFG write is stored while idle and dropped while busy. -/
theorem cfgAndReadOnlyWrites : Obligations.CfgAndReadOnlyWrites := by
  intro s a x rest hr hin u
  have write (reg : BlockReg) (ha : a = blockAddr reg) :
      step s = next (setBus (some (.write false)) (blockWrite reg x (setInputs rest s))) :=
    step_blockWrite reg hr (ha ▸ hin)
  have idle (reg : BlockReg) (f : State → State) (hf : blockWrite reg x = writeCfg f)
      (hp : s.pending = .none) (ha : a = blockAddr reg) :
      step s = next (setBus (some (.write false)) (f (setInputs rest s))) := by
    rw [write reg ha, hf, writeCfg_idle f (by simpa using hp)]
  have busy (reg : BlockReg) (f : State → State) (hf : blockWrite reg x = writeCfg f)
      (hp : s.pending ≠ .none) (ha : a = blockAddr reg) : step s = next { u with accerr := true } := by
    rw [write reg ha, hf, writeCfg_busy f (by simpa using hp)]
    rfl
  refine ⟨idle .cfgN _ rfl, idle .cfgP _ rfl, idle .cfgQ _ rfl, idle .cfgM _ rfl, fun hp ha => ?_, fun ha => ?_⟩
  · obtain ha | ha | ha | ha := ha
    · exact busy .cfgN _ rfl hp ha
    · exact busy .cfgP _ rfl hp ha
    · exact busy .cfgQ _ rfl hp ha
    · exact busy .cfgM _ rfl hp ha
  · obtain ha | ha | ha | ha | ha := ha
    · exact write .id ha
    · exact write .version ha
    · exact write .caps ha
    · exact write .iters ha
    · exact write .errinfo ha

/-- Settles O43, from the two registers' write rules. -/
theorem statusAndCtrlWrites : Obligations.StatusAndCtrlWrites := by
  refine fun s x rest hr => ⟨fun hin => ?_, fun hin hx => ?_⟩
  · rw [step_blockWrite .status hr hin, blockWrite, writeStatus_eq]
    rfl
  · rw [step_blockWrite .ctrl hr hin, blockWrite, writeCtrl_enables _ hx]
    rfl

/-- Every slot is 0 after the reset step (R42). -/
theorem slot_resetStep (s : State) (r : VReg) (i : Nat) : (resetStep s).slot r i = 0#64 := by
  rw [State.slot, resetStep_v, Memory.reg_cleared, Poly.get_nil]

/-- Settles O51: the table of R42, whichever reset it was. -/
theorem resetValues : Obligations.ResetValues := by
  intro s h
  obtain ⟨level, b, hstep, hctrl, hlow, hhigh⟩ := step_resetTurn h
  refine ⟨_, hstep, slot_resetStep s, rfl, rfl, rfl, rfl, rfl, rfl, rfl, rfl, rfl, rfl, rfl, rfl, rfl, rfl, rfl,
    (statusWord_of_reset ..).1, rfl, rfl, rfl, hctrl, hlow, hhigh,
    fun hr => ⟨_, unitStep_init hr rfl, rfl, (statusWord_of_reset ..).2, rfl⟩⟩

/-- Settles O60: a part right after reset is one that takes the reset step. -/
theorem resetMeetsTheStateInvariant : Obligations.ResetMeetsTheStateInvariant :=
  fun p hp => inv_setPort_resetStep (s := State.resetWith p) hp true

end Sys2Proof.Machine
end

section
/-! The claims about who writes what (R22, R28 to R38, R40): each is read off the effects a step can
have on the architectural state, a few fields at a time. -/

namespace Sys2Proof.Machine

/-! ### Frames -/

/-- A write to a CFG register leaves every other field alone. -/
theorem CfgEffect.frame {a : BusAddr} {x : Word} {s t : State} (h : CfgEffect x s a t) :
    ∃ n p q m, t = { s with cfgN := n, cfgP := p, cfgQ := q, cfgM := m } := by
  cases h <;> exact ⟨_, _, _, _, rfl⟩

/-! ### Slots -/

/-- A slot's address in the window (R65). -/
theorem toNat_of_decodeAddr_slot {a : BusAddr} {r : VReg} {i : Nat} {half : Half}
    (h : decodeAddr a = .slot r i half) :
    ∃ k < 2, a.toNat = 0x10000 + r.val * 0x8000 + i * 8 + 4 * k := by
  obtain ⟨hlo, -⟩ := decodeAddr_slot_range h
  unfold decodeAddr at h
  split at h
  · cases h
  rename_i haligned
  split at h
  · cases h
  split at h
  · have halign : a.toNat % 4 = 0 := by simpa [BitVec.toNat_eq] using haligned
    have hoff : (a - 0x10000#20).toNat = a.toNat - 0x10000 := BitVec.toNat_sub_of_le hlo
    cases h
    refine ⟨a.toNat / 4 % 2, by omega, ?_⟩
    show a.toNat = 0x10000 + ((a - 0x10000#20).extractLsb' 15 3).toNat * 0x8000 + _ * 8 + _
    rw [BitVec.extractLsb'_toNat, BitVec.extractLsb'_toNat, hoff]
    omega
  · cases h

/-- Who changes a slot (R22). -/
theorem ArchEffect.slot_eq {s t : State} (h : ArchEffect s t) (r : VReg) (i : Nat) :
    t.slot r i = s.slot r i ∨ s.resetTurn ∨
    (s.unitTurn ∧ t.done = true ∧ ∃ w c, s.pending = .cmd w ∧ decode w = .term c ∧ c.dest = r) ∨
    (s.pending = .none ∧ i < s.params.nmax ∧ ∃ a x k, s.hostWrites a x ∧ k < 2 ∧
      a.toNat = 0x10000 + r.val * 0x8000 + i * 8 + 4 * k) := by
  cases h with
  | nothing => exact .inl rfl
  | reset hr => exact .inr (.inl hr)
  | initDone => exact .inl rfl
  | @completed w _ c res hu hp hd _ =>
    by_cases hr : r = c.dest
    · exact .inr (.inr (.inl ⟨hu, rfl, w, c, hp, hd, hr.symm⟩))
    · exact .inl ((slot_writeBack c.dest res _ r i).trans (if_neg hr))
  | failed => exact .inl rfl
  | readDropped => exact .inl rfl
  | write hh hw =>
    rename_i a x
    cases hw with
    | nothing => exact .inl rfl
    | dropped => exact .inl rfl
    | cfg _ hc => obtain ⟨_, _, _, _, rfl⟩ := hc.frame; exact .inl rfl
    | rejected => exact .inl rfl
    | accepted => exact .inl rfl
    | status => exact .inl (by simp [State.slot])
    | reset ha hx => exact .inr (.inl (.inl ⟨_, ha ▸ hh, hx⟩))
    | enables => exact .inl rfl
    | slot hd hi hb =>
      rename_i q j half
      by_cases hq : r ≠ q ∨ i ≠ j
      · exact .inl (slot_setSlot_other s _ hq)
      · obtain ⟨rfl, rfl⟩ : r = q ∧ i = j := by simpa [not_or] using hq
        obtain ⟨k, hk, haddr⟩ := toNat_of_decodeAddr_slot hd
        exact .inr (.inr (.inr ⟨busy_eq_false.1 hb, hi, a, x, k, hh, hk, haddr⟩))

/-- Settles O54, from who changes a slot. -/
theorem writersOfAPolynomialRegister : Obligations.WritersOfAPolynomialRegister := by
  intro s t r i hstep hne
  obtain ⟨u, level, rest, b, harch, rfl⟩ := step_arch hstep
  exact (harch.slot_eq r i).resolve_left hne

/-! ### pending -/

/-- Who changes what is in flight (R40). -/
theorem ArchEffect.pending_eq {s t : State} (h : ArchEffect s t) :
    t.pending = s.pending ∨ (s.resetTurn ∧ t.pending = .init) ∨ (s.unitTurn ∧ t.pending = .none) ∨
    ∃ w, s.hostWrites 0x020#20 w ∧ s.pending = .none ∧ s.err = false ∧ t.pending = .cmd w := by
  cases h with
  | nothing => exact .inl rfl
  | reset hr => exact .inr (.inl ⟨hr, rfl⟩)
  | initDone hu => exact .inr (.inr (.inl ⟨hu, rfl⟩))
  | completed _ hu => exact .inr (.inr (.inl ⟨hu, rfl⟩))
  | failed _ hu => exact .inr (.inr (.inl ⟨hu, rfl⟩))
  | readDropped => exact .inl rfl
  | write hh hw =>
    cases hw with
    | nothing => exact .inl rfl
    | dropped => exact .inl rfl
    | cfg _ hc => obtain ⟨_, _, _, _, rfl⟩ := hc.frame; exact .inl rfl
    | rejected => exact .inl rfl
    | accepted ha hb he => exact .inr (.inr (.inr ⟨_, ha ▸ hh, busy_eq_false.1 hb, he, rfl⟩))
    | status => exact .inl (writeStatus_pending ..)
    | reset ha hx => exact .inr (.inl ⟨.inl ⟨_, ha ▸ hh, hx⟩, rfl⟩)
    | enables => exact .inl rfl
    | slot => exact .inl rfl

/-- The Unit's turn ends what is in flight (R199, R202, R203, R242). -/
theorem pending_unitTurn {s t : State} (hu : s.unitTurn) (h : step s = .next t) : t.pending = .none := by
  rw [step_unitTurn hu] at h
  obtain ⟨hp, rfl⟩ | ⟨-, rfl⟩ | ⟨w, -, ⟨-, -, rfl⟩ | ⟨-, u, -, -, ⟨e, rfl⟩ | ⟨-, res, -, rfl⟩⟩⟩ := unitTurn_cases hu h
  · exact hp
  · rfl
  · rfl
  · rfl
  · rfl

/-- A reset puts INIT in flight (R240, R42). -/
theorem pending_resetTurn {s t : State} (hr : s.resetTurn) (h : step s = .next t) : t.pending = .init := by
  obtain ⟨level, b, hstep, -⟩ := step_resetTurn hr
  cases hstep.symm.trans h
  rfl

/-- Settles O55, from who changes what is in flight. -/
theorem busyTransitions : Obligations.BusyTransitions := by
  intro s t hstep
  obtain ⟨u, harch, hu⟩ : ∃ u, ArchEffect s u ∧ u.pending = t.pending := by
    obtain ⟨u, level, rest, b, harch, rfl⟩ := step_arch hstep
    exact ⟨u, harch, rfl⟩
  have hpending := harch.pending_eq
  rw [hu] at hpending
  refine ⟨⟨getLsbD_statusWord_low s 0, busy_eq_true⟩, fun hr => ?_, fun w ⟨hr, rest, hin⟩ he => ?_,
    fun hs ht => ?_, fun hs ht => ?_, fun hu => busy_eq_false.2 (pending_unitTurn hu hstep), fun w hw hu hr => ?_⟩
  · simp [busy_eq_true, pending_resetTurn hr hstep]
  · cases (step_blockWrite .cmd hr hin).symm.trans hstep
    exact busy_issueCmd w (s := setInputs rest s) he
  · rw [busy_eq_false] at hs
    rw [busy_eq_true] at ht
    obtain hp | ⟨hr, -⟩ | ⟨-, hp⟩ | ⟨w, hw, -, he, -⟩ := hpending
    · exact absurd (hp.trans hs) ht
    · exact .inl hr
    · exact absurd hp ht
    · exact .inr ⟨w, hw, he⟩
  · rw [busy_eq_true] at hs
    rw [busy_eq_false] at ht
    obtain hp | ⟨-, hp⟩ | ⟨hu, -⟩ | ⟨w, -, hp, -⟩ := hpending
    · exact absurd (hp.symm.trans ht) hs
    · exact nomatch hp.symm.trans ht
    · exact hu
    · exact absurd hp hs
  · obtain hp | ⟨hr', -⟩ | ⟨hu', -⟩ | ⟨_, -, hp, -⟩ := hpending
    · exact hp.trans hw
    · exact absurd hr' hr
    · exact absurd hu' hu
    · exact nomatch hp.symm.trans hw

/-- What a command in flight works on is changed by the Unit and by a reset alone (R40, R70). -/
theorem ArchEffect.operands_eq {s t : State} (h : ArchEffect s t) (hbusy : s.busy = true)
    (hu : ¬ s.unitTurn) (hr : ¬ s.resetTurn) :
    t.pending = s.pending ∧ t.v = s.v ∧ t.cfgN = s.cfgN ∧ t.cfgP = s.cfgP ∧ t.cfgQ = s.cfgQ ∧
    t.cfgM = s.cfgM ∧ t.params = s.params := by
  cases h with
  | nothing => simp
  | reset hr' => exact absurd hr' hr
  | initDone hu' => exact absurd hu' hu
  | completed _ hu' => exact absurd hu' hu
  | failed _ hu' => exact absurd hu' hu
  | readDropped => simp
  | write hh hw =>
    cases hw with
    | nothing => simp
    | dropped => simp
    | cfg hb => exact nomatch hb.symm.trans hbusy
    | rejected => simp
    | accepted _ hb => exact nomatch hb.symm.trans hbusy
    | status => simp
    | reset ha hx => exact absurd (.inl ⟨_, ha ▸ hh, hx⟩) hr
    | enables => simp
    | slot _ _ hb => exact nomatch hb.symm.trans hbusy

/-- Settles O58, from what a step leaves to a command in flight. -/
theorem inFlightOperandsAreFrozen : Obligations.InFlightOperandsAreFrozen := by
  intro s t w hp hstep hu hr
  obtain ⟨u, level, rest, b, harch, rfl⟩ := step_arch hstep
  obtain ⟨hpending, hrest⟩ := harch.operands_eq (busy_eq_true.2 (by simp [hp])) hu hr
  exact ⟨hpending.trans hp, hrest⟩

/-! ### CMDREJ and ACCERR -/

/-- The two kinds of droppable address apart: a CFG register, the coefficient window (R35). -/
theorem droppable_iff (a : BusAddr) : Droppable a ↔
    (a = 0x010#20 ∨ a = 0x014#20 ∨ a = 0x018#20 ∨ a = 0x01C#20) ∨ 0x10000 ≤ a.toNat ∧ a.toNat ≤ 0x4FFFF := by
  simp only [Droppable, or_assoc]

/-- Who changes CMDREJ and ACCERR (R33, R35). -/
theorem ArchEffect.rejectionFlags_eq {s t : State} (h : ArchEffect s t) :
    (t.cmdrej = s.cmdrej ∧ t.accerr = s.accerr) ∨
    (s.resetTurn ∧ t.cmdrej = false ∧ t.accerr = false) ∨
    ((∃ w, s.hostWrites 0x020#20 w) ∧ (s.busy = true ∨ s.err = true) ∧ t.cmdrej = true ∧ t.accerr = s.accerr) ∨
    ((∃ a, ((∃ x, s.hostWrites a x) ∧ (a = 0x010#20 ∨ a = 0x014#20 ∨ a = 0x018#20 ∨ a = 0x01C#20)) ∨
        (((∃ x, s.hostWrites a x) ∨ s.hostReads a) ∧ 0x10000 ≤ a.toNat ∧ a.toNat ≤ 0x4FFFF)) ∧
      s.busy = true ∧ t.cmdrej = s.cmdrej ∧ t.accerr = true) ∨
    ∃ x, s.hostWrites 0x024#20 x ∧
      t.cmdrej = (s.cmdrej && !x.getLsbD 3) ∧ t.accerr = (s.accerr && !x.getLsbD 5) := by
  cases h with
  | nothing => exact .inl ⟨rfl, rfl⟩
  | reset hr => exact .inr (.inl ⟨hr, rfl, rfl⟩)
  | initDone => exact .inl ⟨rfl, rfl⟩
  | completed => exact .inl ⟨rfl, rfl⟩
  | failed => exact .inl ⟨rfl, rfl⟩
  | readDropped hh hb ha => exact .inr (.inr (.inr (.inl ⟨⟨_, .inr ⟨.inr hh, ha⟩⟩, hb, rfl, rfl⟩)))
  | @write a _ _ hh hw =>
    cases hw with
    | nothing => exact .inl ⟨rfl, rfl⟩
    | dropped hb ha =>
      refine .inr (.inr (.inr (.inl ⟨⟨a, ?_⟩, hb, rfl, rfl⟩)))
      exact ((droppable_iff a).1 ha).imp (fun hcfg => ⟨⟨_, hh⟩, hcfg⟩) (fun hwindow => ⟨.inl ⟨_, hh⟩, hwindow⟩)
    | cfg _ hc => obtain ⟨_, _, _, _, rfl⟩ := hc.frame; exact .inl ⟨rfl, rfl⟩
    | rejected ha hb => exact .inr (.inr (.inl ⟨⟨_, ha ▸ hh⟩, hb, rfl, rfl⟩))
    | accepted => exact .inl ⟨rfl, rfl⟩
    | status ha => exact .inr (.inr (.inr (.inr ⟨_, ha ▸ hh, writeStatus_cmdrej .., writeStatus_accerr ..⟩)))
    | reset ha hx => exact .inr (.inl ⟨.inl ⟨_, ha ▸ hh, hx⟩, rfl, rfl⟩)
    | enables => exact .inl ⟨rfl, rfl⟩
    | slot => exact .inl ⟨rfl, rfl⟩

/-- Settles O56, from who changes the two flags. -/
theorem stickyRejectionFlags : Obligations.StickyRejectionFlags := by
  intro s t hstep
  refine ⟨fun w ⟨hr, rest, hin⟩ hb => ?_, ?_⟩
  · cases (step_blockWrite .cmd hr hin).symm.trans hstep
    rw [blockWrite, issueCmd_rejected w (s := setInputs rest s) hb]
    rfl
  obtain ⟨u, level, rest, b, harch, rfl⟩ := step_arch hstep
  simp only [setPorts_cmdrej, setPorts_accerr]
  obtain ⟨hc, ha⟩ | ⟨hr, hc, ha⟩ | ⟨hw, hb, hc, ha⟩ | ⟨hdrop, hb, hc, ha⟩ | ⟨x, hx, hc, ha⟩ :=
    harch.rejectionFlags_eq
  · simp +contextual [hc, ha]
  · simp [hc, ha, hr]
  · simp +contextual [hc, ha, hw, hb]
  · simpa +contextual [hc, ha, hb] using fun _ => hdrop
  · have clears (k : Nat) (hk : x.getLsbD k = true) :
        s.resetTurn ∨ ∃ x, s.hostWrites 0x024#20 x ∧ x.getLsbD k = true := .inr ⟨x, hx, hk⟩
    simpa +contextual [hc, ha] using ⟨fun _ => clears 3, fun _ => clears 5⟩

/-! ### The control registers -/

/-- CMD_LAST, DONE, ERR, the two enables, ITERS and ERRINFO. -/
def State.control (s : State) : Word × Bool × Bool × Bool × Bool × Word × Word :=
  (s.cmdLast, s.done, s.err, s.ieDone, s.ieErr, s.iters, s.errinfo)

/-- Who changes the control registers (R28, R31, R32, R36 to R38). -/
theorem ArchEffect.control_eq {s t : State} (h : ArchEffect s t) :
    t.control = s.control ∨ s.resetTurn ∨
    (∃ w, s.hostWrites 0x020#20 w ∧ s.busy = false ∧ s.err = false ∧ t.control = (acceptCmd w s).control) ∨
    (∃ x, s.hostWrites 0x024#20 x ∧ t.control = (writeStatus x s).control) ∨
    (∃ x d e, s.hostWrites 0x028#20 x ∧ t.control = (setEnables d e s).control) ∨
    ∃ w n, s.unitTurn ∧ s.pending = .cmd w ∧ (n = s.iters ∨ ∃ c, decode w = .term c ∧ isInv2k c) ∧
      (t.control = (completeOk { s with iters := n }).control ∨
       ∃ e, t.control = (raiseError e { s with iters := n }).control) := by
  cases h with
  | nothing => exact .inl rfl
  | reset hr => exact .inr (.inl hr)
  | initDone => exact .inl rfl
  | completed _ hu hp hd hn =>
    exact .inr (.inr (.inr (.inr (.inr ⟨_, _, hu, hp, hn.imp_right fun hc => ⟨_, hd, hc⟩, .inl rfl⟩))))
  | failed e hu hp hn => exact .inr (.inr (.inr (.inr (.inr ⟨_, _, hu, hp, hn, .inr ⟨e, rfl⟩⟩))))
  | readDropped => exact .inl rfl
  | write hh hw =>
    cases hw with
    | nothing => exact .inl rfl
    | dropped => exact .inl rfl
    | cfg _ hc => obtain ⟨_, _, _, _, rfl⟩ := hc.frame; exact .inl rfl
    | rejected => exact .inl rfl
    | accepted ha hb he => exact .inr (.inr (.inl ⟨_, ha ▸ hh, hb, he, rfl⟩))
    | status ha => exact .inr (.inr (.inr (.inl ⟨_, ha ▸ hh, rfl⟩)))
    | reset ha hx => exact .inr (.inl (.inl ⟨_, ha ▸ hh, hx⟩))
    | enables ha => exact .inr (.inr (.inr (.inr (.inl ⟨_, _, _, ha ▸ hh, rfl⟩))))
    | slot => exact .inl rfl

/-- Settles O57, from who changes the control registers. -/
theorem writersOfTheControlRegisters : Obligations.WritersOfTheControlRegisters := by
  intro s t hstep hreset
  obtain ⟨u, level, rest, b, harch, rfl⟩ := step_arch hstep
  simp only [setPorts_cmdLast, setPorts_done, setPorts_err, setPorts_ieDone, setPorts_ieErr, setPorts_iters,
    setPorts_errinfo]
  have hcases := harch.control_eq
  simp only [State.control, Prod.mk.injEq] at hcases
  obtain h | hr | ⟨w, hw, hb, he, h⟩ | ⟨x, hx, h⟩ | ⟨x, d, e, hx, h⟩ | ⟨w, n, hu, hp, hn, hend⟩ := hcases
  · simp +contextual [h]
  · exact absurd hr hreset
  · simpa +contextual [h] using ⟨fun _ => ⟨hw, hb, he⟩, fun _ => .inl ⟨⟨w, hw⟩, hb, he⟩⟩
  · simpa +contextual [h] using ⟨fun _ h1 => .inr ⟨x, hx, h1⟩, fun _ h2 => ⟨x, hx, h2⟩⟩
  · simpa +contextual [h] using fun _ => ⟨x, hx⟩
  · have hturn : s.completionTurn := ⟨hu, w, hp⟩
    obtain h | ⟨e, h⟩ := hend
    · simpa +contextual [h, hturn, hp] using hn.resolve_left
    · simpa +contextual [h, hturn, hp, State.commandWord] using hn.resolve_left

end Sys2Proof.Machine
end

section
/-! What a command reads and what it writes (R22, R23, R121). -/

namespace Sys2Proof.Machine

/-! ### The frame of a command that succeeds -/

/-- Settles O13, from the two ways a command can end. -/
theorem successChangesOnlyItsDestination : Obligations.SuccessChangesOnlyItsDestination := by
  intro i s t _ hexec ht
  obtain ⟨u, hst, ⟨e, he⟩ | ⟨-, res, hlen, he⟩⟩ := exec_cases i s
  · cases he.symm.trans hexec
    cases ht
  · cases he.symm.trans hexec
    obtain ⟨n, rfl, hn⟩ := hst.frame
    have slot (r : VReg) (k : Nat) := slot_writeBack i.dest res { s with iters := n } r k
    refine ⟨rfl, fun r hr k => (slot r k).trans (if_neg hr), fun k hk => ?_, hn.resolve_right⟩
    refine (slot i.dest k).trans ?_
    rw [if_pos rfl, List.getD_eq_default _ _ (by rw [hlen]; exact hk)]
    rfl

/-! ### Slots from N on are not read -/

/-- The command i ends alike from s and from s with the memory v: in the same error, or with the same
polynomial to write, and with the same ITERS. -/
inductive SameEnd (i : Instr) (s : State) (v : Memory) : Prop where
  | fail (e : ErrCode) (n : Word) (h : exec i s = fail e { s with iters := n })
    (h' : exec i { s with v := v } = fail e { s with iters := n, v := v })
  | commit (res : List Int) (n : Word) (h : exec i s = commit i.dest res { s with iters := n })
    (h' : exec i { s with v := v } = commit i.dest res { s with iters := n, v := v })

/-- CheckFit decides on the polynomial alone (R122). -/
theorem sameEnd_of_commitChecked {i : Instr} {s : State} {v : Memory} (res : List Int)
    (h : exec i s = commitChecked i.dest res s)
    (h' : exec i { s with v := v } = commitChecked i.dest res { s with v := v }) : SameEnd i s v := by
  cases hfit : res.all fitsCW with
  | true =>
    simp only [commitChecked, hfit, if_true] at h h'
    exact .commit res s.iters h h'
  | false =>
    simp only [commitChecked, hfit, Bool.false_eq_true, if_false] at h h'
    exact .fail .overflow s.iters h h'

/-- A source operand is read below N alone (R120). -/
theorem src_congr {s : State} {v : Memory} {n : Nat} (h : ∀ r, ∀ k < n, Poly.get (v.reg r) k = s.slot r k)
    (r : VReg) : src { s with v := v } n r = src s n r := by
  refine List.map_congr_left fun k hk => ?_
  rw [show State.slot { s with v := v } r k = s.slot r k from h r k (List.mem_range.1 hk)]

/-- No modulus stands in the memory (R94). -/
theorem modSel_withMemory (s : State) (v : Memory) (ms : Ms) : modSel { s with v := v } ms = modSel s ms := by
  cases ms <;> rfl

/-- A command ends alike from two memories that agree below N (R23). -/
theorem sameEnd_of_agree (i : Instr) {s : State} {v : Memory}
    (h : ∀ r, ∀ k < s.degree, Poly.get (v.reg r) k = s.slot r k) : SameEnd i s v := by
  by_cases hN : s.legalN
  swap
  · exact .fail .badN s.iters (exec_illegalN hN i) (exec_illegalN (s := { s with v := v }) hN i)
  have hN' : State.legalN { s with v := v } := hN
  have hsrc (r : VReg) : src { s with v := v } s.cfgN.toNat r = src s s.cfgN.toNat r := src_congr h r
  have hmod (ms : Ms) : modSel { s with v := v } ms = modSel s ms := modSel_withMemory s v ms
  cases i with
  | conv vd va vb =>
    exact sameEnd_of_commitChecked _ (exec_conv hN vd va vb) (by rw [exec_conv hN', hsrc, hsrc]; rfl)
  | add vd va vb =>
    exact sameEnd_of_commitChecked _ (exec_add hN vd va vb) (by rw [exec_add hN', hsrc, hsrc]; rfl)
  | bmod vd va ms =>
    by_cases hm : modSel s ms = 0
    · exact .fail .badModulus s.iters ((exec_bmod hN vd va ms).trans (if_pos hm))
        ((exec_bmod hN' vd va ms).trans (if_pos ((hmod ms).trans hm)))
    · refine .commit _ s.iters ((exec_bmod hN vd va ms).trans (if_neg hm)) ?_
      rw [exec_bmod hN', hmod, hsrc, if_neg hm]
      rfl
  | invp vd va ms =>
    cases hp : isPrime (modSel s ms) with
    | false =>
      exact .fail .badModulus s.iters (exec_invp_badModulus hN hp) (exec_invp_badModulus hN' (by rw [hmod, hp]))
    | true =>
      cases hi : invModPrime s.cfgN.toNat (modSel s ms) (src s s.cfgN.toNat va) with
      | none =>
        exact .fail .notInvertible s.iters (exec_invp_none hN hp hi)
          (exec_invp_none hN' (by rw [hmod, hp]) (by rw [hmod, hsrc, hi]))
      | some g =>
        exact .commit g s.iters (exec_invp_some hN hp hi)
          (exec_invp_some hN' (by rw [hmod, hp]) (by rw [hmod, hsrc, hi]))
  | inv2k vd va ms =>
    cases hk : pow2Exponent (modSel s ms) with
    | none =>
      exact .fail .badModulus s.iters (exec_inv2k_badModulus hN hk) (exec_inv2k_badModulus hN' (by rw [hmod, hk]))
    | some k =>
      have hk' : pow2Exponent (modSel { s with v := v } ms) = some k := by rw [hmod, hk]
      cases hi : invModPrime s.cfgN.toNat 2 (src s s.cfgN.toNat va) with
      | none =>
        exact .fail .notInvertible _ (exec_inv2k_none hN hk hi) (exec_inv2k_none hN' hk' (by rw [hsrc, hi]))
      | some g =>
        have hi' : invModPrime s.cfgN.toNat 2 (src { s with v := v } s.cfgN.toNat va) = some g := by rw [hsrc, hi]
        cases hl : newtonLoop s.cfgN.toNat (modSel s ms) (src s s.cfgN.toNat va) (iterationCap k) 0 g with
        | converged f it =>
          exact .commit f _ (exec_inv2k_converged hN hk hi hl)
            (exec_inv2k_converged hN' hk' hi' (by rw [hmod, hsrc, hl]))
        | capped it =>
          exact .fail .iterCap _ (exec_inv2k_capped hN hk hi hl)
            (exec_inv2k_capped hN' hk' hi' (by rw [hmod, hsrc, hl]))
  | mov vd va => exact .commit _ s.iters (exec_mov hN vd va) (by rw [exec_mov hN', hsrc]; rfl)
  | ldc vd imm => exact .commit _ s.iters (exec_ldc hN vd imm) (exec_ldc hN' vd imm)

/-- Settles O27: an error leaves every slot alone, a success writes one polynomial. -/
theorem slotsFromNOnAreNotRead : Obligations.SlotsFromNOnAreNotRead := by
  intro i s t t' v hv hexec hexec'
  cases sameEnd_of_agree i hv with
  | fail e n h h' =>
    cases h.symm.trans hexec
    cases h'.symm.trans hexec'
    exact ⟨rfl, hv, fun hs ht => nomatch hs.symm.trans ht⟩
  | commit res n h h' =>
    cases h.symm.trans hexec
    cases h'.symm.trans hexec'
    have slot (r : VReg) (k : Nat) := slot_writeBack i.dest res { s with iters := n } r k
    have slot' (r : VReg) (k : Nat) := slot_writeBack i.dest res { s with iters := n, v := v } r k
    refine ⟨rfl, fun r k hk => ((slot' r k).trans ?_).trans (slot r k).symm, fun _ _ k => ?_⟩
    · by_cases hr : r = i.dest
      · rw [if_pos hr, if_pos hr]
      · rw [if_neg hr, if_neg hr]
        exact hv r k hk
    · exact ((slot' i.dest k).trans (if_pos rfl)).trans ((slot i.dest k).trans (if_pos rfl)).symm

end Sys2Proof.Machine
end

section
/-! The Host's accesses of the coefficient window and of addresses that reach nothing: the address
decoder in the arithmetic of R63 and R65, the halves of a coefficient (R10), and what one
transaction does to a slot (R62, R66 to R70). -/

namespace Sys2Proof.Machine

/-! ### The address decoder forward -/

/-- How far above the slot's address a half's word lies (R65). -/
def Half.offset : Half → Nat
  | .lo => 0
  | .hi => 4

/-- The bus address of a half of slot i of register r (R65). -/
def slotAddr (r : VReg) (i : Nat) (half : Half) : BusAddr :=
  BitVec.ofNat 20 (0x10000 + r.val * 0x8000 + i * 8 + half.offset)

theorem Half.offset_cases (half : Half) : half.offset = 0 ∧ half = .lo ∨ half.offset = 4 ∧ half = .hi := by
  cases half <;> simp [Half.offset]

theorem extractLsb'_low_two_eq_zero {a : BusAddr} : a.extractLsb' 0 2 = 0#2 ↔ a.toNat % 4 = 0 := by
  simp [BitVec.toNat_eq]

theorem decodeAddr_misaligned {a : BusAddr} (h : a.toNat % 4 ≠ 0) : decodeAddr a = .misaligned := by
  rw [decodeAddr, if_pos (mt extractLsb'_low_two_eq_zero.1 h)]

/-- No register of the block lies from 0x30 on (R64). -/
theorem blockReg_eq_none {n : Nat} (h : 0x30 ≤ n) : blockReg n = none := by
  cases hreg : blockReg n with
  | none => rfl
  | some reg =>
    have hlast : (blockAddr reg).toNat ≤ 0x2C := by cases reg <;> decide
    have := blockReg_eq hreg
    omega

/-- An aligned address above the block is in the window or reserved (R63). -/
theorem decodeAddr_above_block {a : BusAddr} (halign : a.toNat % 4 = 0) (h : 0x30 ≤ a.toNat) :
    decodeAddr a =
      if 0x10000 ≤ a.toNat ∧ a.toNat ≤ 0x4FFFF then windowTarget (a - 0x10000#20) else .reserved := by
  rw [decodeAddr, if_neg (not_not.2 (extractLsb'_low_two_eq_zero.2 halign)), blockReg_eq_none h]

/-- The bit fields of a window offset are the digits of the number (R65). -/
theorem windowTarget_eq {o : BusAddr} {r : VReg} {i : Nat} {half : Half} (hi : i < 4096)
    (ho : o.toNat = r.val * 0x8000 + i * 8 + half.offset) : windowTarget o = .slot r i half := by
  have hr := r.isLt
  have hoffset := half.offset_cases
  have hreg : (o.extractLsb' 15 3).toFin = r := by
    refine Fin.ext ?_
    show (o.extractLsb' 15 3).toNat = r.val
    rw [BitVec.extractLsb'_toNat, Nat.shiftRight_eq_div_pow]
    omega
  have hslot : (o.extractLsb' 3 12).toNat = i := by
    rw [BitVec.extractLsb'_toNat, Nat.shiftRight_eq_div_pow]
    omega
  have hhalf : (if o.getLsbD 2 then Half.hi else Half.lo) = half := by
    rw [BitVec.getLsbD, Nat.testBit_eq_decide_div_mod_eq]
    obtain ⟨hoff, rfl⟩ | ⟨hoff, rfl⟩ := hoffset
    · exact if_neg (by rw [decide_eq_true_iff]; omega)
    · exact if_pos (by rw [decide_eq_true_iff]; omega)
  rw [windowTarget, hreg, hslot, hhalf]

theorem decodeAddr_eq_slot {a : BusAddr} {r : VReg} {i : Nat} {half : Half} (hi : i < 4096)
    (ha : a.toNat = 0x10000 + r.val * 0x8000 + i * 8 + half.offset) : decodeAddr a = .slot r i half := by
  have hr := r.isLt
  have hoffset := half.offset_cases
  rw [decodeAddr_above_block (by omega) (by omega), if_pos (by omega)]
  refine windowTarget_eq hi ?_
  rw [BitVec.toNat_sub_of_le (show 0x10000#20 ≤ a from (show 0x10000 ≤ a.toNat by omega))]
  show a.toNat - 0x10000 = _
  omega

theorem decodeAddr_slotAddr (r : VReg) {i : Nat} (half : Half) (hi : i < 4096) :
    decodeAddr (slotAddr r i half) = .slot r i half := by
  have hr := r.isLt
  have hoffset := half.offset_cases
  exact decodeAddr_eq_slot hi (by rw [slotAddr, BitVec.toNat_ofNat]; omega)

/-- A window address by its digits (R65). -/
theorem exists_digits_of_window {n : Nat} (halign : n % 4 = 0) (hlo : 0x10000 ≤ n) (hhi : n ≤ 0x4FFFF) :
    ∃ (r : VReg) (i : Nat) (half : Half), i < 4096 ∧ n = 0x10000 + r.val * 0x8000 + i * 8 + half.offset := by
  refine ⟨⟨(n - 0x10000) / 0x8000, by omega⟩, n / 8 % 4096, if n / 4 % 2 = 0 then .lo else .hi, by omega, ?_⟩
  split
  · simp only [Half.offset]; omega
  · simp only [Half.offset]; omega

/-- The addresses of R62 and R63 that reach nothing. -/
theorem decodeAddr_unmapped {a : BusAddr}
    (h : a.toNat % 4 ≠ 0 ∨ (0x00030 ≤ a.toNat ∧ a.toNat ≤ 0x0FFFF) ∨ 0x50000 ≤ a.toNat) :
    decodeAddr a = .misaligned ∨ decodeAddr a = .reserved := by
  by_cases halign : a.toNat % 4 = 0
  · exact .inr (by rw [decodeAddr_above_block halign (by omega), if_neg (by omega)])
  · exact .inl (decodeAddr_misaligned halign)

/-! ### The halves of a coefficient -/

@[simp] theorem lo32_joinHalves (hi lo : Word) : lo32 (joinHalves hi lo) = lo :=
  BitVec.extractLsb'_append_eq_right

@[simp] theorem hi32_joinHalves (hi lo : Word) : hi32 (joinHalves hi lo) = hi :=
  BitVec.extractLsb'_append_eq_left

/-- The two halves written in either order replace the whole coefficient (R67). -/
theorem writeHalf_lo_hi (c : Coeff) (hi lo : Word) : writeHalf .hi (writeHalf .lo c lo) hi = joinHalves hi lo := by
  simp only [writeHalf, lo32_joinHalves]

theorem writeHalf_hi_lo (c : Coeff) (hi lo : Word) : writeHalf .lo (writeHalf .hi c hi) lo = joinHalves hi lo := by
  simp only [writeHalf, hi32_joinHalves]

theorem toNat_lo32 (c : Coeff) : (lo32 c).toNat = (c.toInt % 2 ^ 32).toNat := by
  rw [lo32, BitVec.extractLsb'_toNat, BitVec.toInt_eq_toNat_cond]
  split <;> omega

theorem toNat_hi32 (c : Coeff) : (hi32 c).toNat = (c.toInt / 2 ^ 32 % 2 ^ 32).toNat := by
  rw [hi32, BitVec.extractLsb'_toNat, BitVec.toInt_eq_toNat_cond, Nat.shiftRight_eq_div_pow]
  split <;> omega

/-- An integer's 64-bit word is that of its two halves (R10). -/
theorem joinHalves_ofInt (c : Int) :
    joinHalves (BitVec.ofInt 32 (c / 2 ^ 32)) (BitVec.ofInt 32 c) = BitVec.ofInt 64 c := by
  refine BitVec.eq_of_toNat_eq ?_
  rw [joinHalves, BitVec.toNat_append, ← Nat.shiftLeft_add_eq_or_of_lt (BitVec.isLt _), Nat.shiftLeft_eq,
    BitVec.toNat_ofInt, BitVec.toNat_ofInt, BitVec.toNat_ofInt]
  omega

theorem toInt_joinHalves_ofInt {c : Int} (h : Fits c) :
    (joinHalves (BitVec.ofInt 32 (c / 2 ^ 32)) (BitVec.ofInt 32 c)).toInt = c := by
  rw [joinHalves_ofInt, toInt_ofInt_of_fits ((fitsCW_iff c).2 h)]

/-! ### One transaction -/

/-- A Host step out of reset is its transaction, with the answer on the bus (R61). -/
theorem step_transact {s u : State} {t : Transaction} {b : BusAnswer} {rest : List Input} (hr : s.rstN = true)
    (hin : s.inputs = .host t :: rest) (h : transact t (setInputs rest s) = (u, b)) :
    step s = .next (setBus (some b) u) := by
  rw [step_host hin, hostStep_live _ (by simpa using hr), h]

/-- A bus error (R62). -/
theorem busRead_unmapped {a : BusAddr} (s : State) (h : decodeAddr a = .misaligned ∨ decodeAddr a = .reserved) :
    busRead a s = (s, .read 0#32 true) := by
  obtain h | h := h <;> simp only [busRead, h]

theorem busWrite_unmapped {a : BusAddr} (x : Word) (s : State)
    (h : decodeAddr a = .misaligned ∨ decodeAddr a = .reserved) : busWrite a x s = (s, .write true) := by
  obtain h | h := h <;> simp only [busWrite, h]

section Slot

variable {s : State} {a : BusAddr} {r : VReg} {i : Nat} {half : Half} (hd : decodeAddr a = .slot r i half)
include hd

theorem busRead_slot_beyond (hi : s.params.nmax ≤ i) : busRead a s = (s, .read 0#32 true) := by
  simp only [busRead, hd, if_pos hi]

theorem busRead_slot_busy (hi : i < s.params.nmax) (hp : s.pending ≠ .none) :
    busRead a s = (dropAccess s, .read 0#32 false) := by
  simp only [busRead, hd, if_neg (Nat.not_le.2 hi), if_pos (busy_eq_true.2 hp)]

theorem busRead_slot_idle (hi : i < s.params.nmax) (hp : s.pending = .none) :
    busRead a s = (s, .read (readHalf half (s.slot r i)) false) := by
  simp only [busRead, hd, if_neg (Nat.not_le.2 hi), busy_eq_false.2 hp, Bool.false_eq_true, if_false]

theorem busWrite_slot_beyond (x : Word) (hi : s.params.nmax ≤ i) : busWrite a x s = (s, .write true) := by
  simp only [busWrite, hd, if_pos hi]

theorem busWrite_slot_busy (x : Word) (hi : i < s.params.nmax) (hp : s.pending ≠ .none) :
    busWrite a x s = (dropAccess s, .write false) := by
  simp only [busWrite, hd, if_neg (Nat.not_le.2 hi), if_pos (busy_eq_true.2 hp)]

theorem busWrite_slot_idle (x : Word) (hi : i < s.params.nmax) (hp : s.pending = .none) :
    busWrite a x s = (s.setSlot r i (writeHalf half (s.slot r i) x), .write false) := by
  simp only [busWrite, hd, if_neg (Nat.not_le.2 hi), busy_eq_false.2 hp, Bool.false_eq_true, if_false]

/-- The step of a write that the window takes (R67): the memory it leaves, read slot by slot. -/
theorem step_slotWrite {x : Word} {rest : List Input} (hr : s.rstN = true)
    (hin : s.inputs = .host (.write a x) :: rest) (hi : i < s.params.nmax) (hp : s.pending = .none)
    (hwf : Memory.wf s.params.nmax s.v) :
    ∃ v, step s = .next { s with inputs := rest, bus := some (.write false), v := v } ∧
      Memory.wf s.params.nmax v ∧ Poly.get (v.reg r) i = writeHalf half (s.slot r i) x ∧
      ∀ q k, (q ≠ r ∨ k ≠ i) → Poly.get (v.reg q) k = s.slot q k :=
  ⟨_, step_transact hr hin (busWrite_slot_idle hd x hi hp), setSlot_wf hwf r _ hi, slot_setSlot_same hwf r i _,
    fun _ _ => slot_setSlot_other s _⟩

end Slot

/-- A run begins with a step. -/
theorem run_succ {s t : State} (k : Nat) (h : step s = .next t) :
    Host.Core.run Sys2Proof.core (k + 1) s = Host.Core.run Sys2Proof.core k t := by
  simp only [Host.Core.run, Host.Check.core_step, h]

/-- Two writes to one slot, whichever halves they name: both are stored, in order. -/
theorem run_two_slotWrites {s : State} {a b : BusAddr} {x y : Word} {r : VReg} {i : Nat} {half half' : Half}
    {rest : List Input} (hr : s.rstN = true) (hp : s.pending = .none) (hi : i < s.params.nmax)
    (hwf : Memory.wf s.params.nmax s.v) (ha : decodeAddr a = .slot r i half) (hb : decodeAddr b = .slot r i half')
    (hin : s.inputs = .host (.write a x) :: .host (.write b y) :: rest) :
    ∃ v, Host.Core.run Sys2Proof.core 2 s = .next { s with inputs := rest, bus := some (.write false), v := v } ∧
      Poly.get (v.reg r) i = writeHalf half' (writeHalf half (s.slot r i) x) y ∧
      ∀ q k, (q ≠ r ∨ k ≠ i) → Poly.get (v.reg q) k = s.slot q k := by
  obtain ⟨v, hstep, hwf', hget, hother⟩ := step_slotWrite ha hr hin hi hp hwf
  let t : State := { s with inputs := .host (.write b y) :: rest, bus := some (.write false), v := v }
  obtain ⟨v', hstep', -, hget', hother'⟩ := step_slotWrite hb (s := t) hr rfl hi hp hwf'
  exact ⟨v', (run_succ 1 hstep).trans (run_succ 0 hstep'), hget'.trans (congrArg (writeHalf half' · y) hget),
    fun q k hne => (hother' q k hne).trans (hother q k hne)⟩

end Sys2Proof.Machine
end

section
/-! The claims about the bus: the register block's reads, bus errors, the coefficient window. -/

namespace Sys2Proof.Machine

open Host.Outcome

/-- Settles O46: the decoder on each slot's two addresses, and each window address by its digits. -/
theorem windowAddressMap : Obligations.WindowAddressMap := by
  refine ⟨fun r i hi => ⟨decodeAddr_slotAddr r .lo hi, decodeAddr_slotAddr r .hi hi⟩, fun a halign hlo hhi => ?_⟩
  obtain ⟨r, i, half, hi, ha⟩ := exists_digits_of_window halign hlo hhi
  refine ⟨r, i, half, hi, decodeAddr_eq_slot hi ha, ?_⟩
  cases half <;> exact ha

/-- Settles O40, register by register. -/
theorem blockReads : Obligations.BlockReads := by
  intro s a rest hr hin answers
  have read (reg : BlockReg) (ha : a = blockAddr reg) : answers (blockValue s reg) :=
    step_blockRead (rest := rest) reg hr (ha ▸ hin)
  exact ⟨read .id, read .version, read .caps, read .iters, read .cfgN, read .cfgP, read .cfgQ, read .cfgM,
    read .cmd, read .status, read .ctrl, read .errinfo⟩

/-- Settles O45: such an address decodes to no register and no slot. -/
theorem badAddressIsABusError : Obligations.BadAddressIsABusError := fun _ _ x _ hr ha =>
  have hd := decodeAddr_unmapped ha
  ⟨fun hin => step_transact hr hin (busRead_unmapped _ hd),
    fun hin => step_transact hr hin (busWrite_unmapped x _ hd)⟩

/-- Settles O47: beyond NMAX, busy, idle; the halves by arithmetic on the coefficient. -/
theorem coefficientReads : Obligations.CoefficientReads := by
  intro s a r i half rest hr hin hd
  refine ⟨fun hi => step_transact hr hin (busRead_slot_beyond hd hi),
    fun hi hp => step_transact hr hin (busRead_slot_busy hd hi hp),
    fun hi hp => ⟨_, step_transact hr hin (busRead_slot_idle hd hi hp), ?_⟩⟩
  cases half with
  | lo => exact toNat_lo32 (s.slot r i)
  | hi => exact toNat_hi32 (s.slot r i)

/-- Settles O48: beyond NMAX, busy, idle; what an idle write leaves by the laws of a slot. -/
theorem coefficientWrites : Obligations.CoefficientWrites := by
  intro s a x r i half rest hr hin hd
  refine ⟨fun hi => step_transact hr hin (busWrite_slot_beyond hd x hi),
    fun hi hp => step_transact hr hin (busWrite_slot_busy hd x hi hp),
    fun hi hp hwf => ?_⟩
  obtain ⟨v, hstep, -, hget, hother⟩ := step_slotWrite hd hr hin hi hp hwf
  refine ⟨v, hstep, ?_, hother⟩
  cases half <;> exact hget

/-- Settles O49: in either order the slot holds the two halves of c, which make its 64-bit word. -/
theorem twoHalfWritesStoreACoefficient : Obligations.TwoHalfWritesStoreACoefficient := by
  intro s c r i rest hfits hr hp hslot hi hwf _ _ hin
  have hlo := decodeAddr_slotAddr r .lo hslot
  have hhi := decodeAddr_slotAddr r .hi hslot
  obtain hin | hin := hin
  · obtain ⟨v, hrun, hget, hother⟩ := run_two_slotWrites hr hp hi hwf hlo hhi hin
    exact ⟨v, hrun, by rw [hget, writeHalf_lo_hi, toInt_joinHalves_ofInt hfits], hother⟩
  · obtain ⟨v, hrun, hget, hother⟩ := run_two_slotWrites hr hp hi hwf hhi hlo hin
    exact ⟨v, hrun, by rw [hget, writeHalf_hi_lo, toInt_joinHalves_ofInt hfits], hother⟩

end Sys2Proof.Machine
end

section
/-! Words by their fields (R90 to R95). Each field is a digit of the word's number; a word is
made from its fields and gives them back; the encoder's words are such words (R100). -/

namespace Sys2Proof

/-! ### The fields by division and remainder -/

theorem toNat_opField (w : Word) : (opField w).toNat = w.toNat / 2 ^ 26 := by
  rw [opField, BitVec.extractLsb'_toNat, Nat.shiftRight_eq_div_pow]
  omega

theorem vdField_eq (w : Word) : vdField w = Fin.ofNat 8 (w.toNat / 2 ^ 23) := by
  simp [vdField, Nat.shiftRight_eq_div_pow]

theorem vaField_eq (w : Word) : vaField w = Fin.ofNat 8 (w.toNat / 2 ^ 20) := by
  simp [vaField, Nat.shiftRight_eq_div_pow]

theorem vbField_eq (w : Word) : vbField w = Fin.ofNat 8 (w.toNat / 2 ^ 17) := by
  simp [vbField, Nat.shiftRight_eq_div_pow]

theorem toNat_msField (w : Word) : (msField w).toNat = w.toNat / 2 ^ 15 % 4 := by
  rw [msField, BitVec.extractLsb'_toNat, Nat.shiftRight_eq_div_pow]

theorem toNat_zeroField (w : Word) : (zeroField w).toNat = w.toNat % 2 ^ 15 := by
  rw [zeroField, BitVec.extractLsb'_toNat, Nat.shiftRight_zero]

theorem immField_eq (w : Word) : immField w =
    if w.toNat % 2 ^ 23 < 2 ^ 22 then ((w.toNat % 2 ^ 23 : Nat) : Int) else ((w.toNat % 2 ^ 23 : Nat) : Int) - 2 ^ 23 := by
  rw [immField, BitVec.toInt_eq_toNat_cond, BitVec.extractLsb'_toNat, Nat.shiftRight_zero]
  split <;> split <;> omega

/-- A sign-extended constant is in LDC's range (R95). -/
theorem immOk_immField (w : Word) : immOk (immField w) = true := by
  rw [immField_eq, immOk, Bool.and_eq_true, decide_eq_true_iff, decide_eq_true_iff]
  split <;> omega

/-- The table of R94, on the number of the two bits. -/
theorem msOfBits_eq (b : BitVec 2) : msOfBits b =
    if b.toNat = 0 then .p else if b.toNat = 1 then .q else if b.toNat = 2 then .m else .two := by
  revert b; decide

@[simp] theorem msOfBits_bitsOfMs (ms : Ms) : msOfBits (bitsOfMs ms) = ms := by cases ms <;> rfl

@[simp] theorem bitsOfMs_msOfBits (b : BitVec 2) : bitsOfMs (msOfBits b) = b := by revert b; decide

/-! ### A word from its fields -/

/-- The word of format R with these fields (R91). -/
def formatR (op : BitVec 6) (d a b : VReg) (ms : BitVec 2) (z : BitVec 15) : Word :=
  op.setWidth 32 <<< 26 ||| regAt d 23 ||| regAt a 20 ||| regAt b 17 ||| ms.setWidth 32 <<< 15 ||| z.setWidth 32

/-- The word of format I with these fields (R92). -/
def formatI (op : BitVec 6) (d : VReg) (x : BitVec 23) : Word :=
  op.setWidth 32 <<< 26 ||| regAt d 23 ||| x.setWidth 32

/-- Fields that do not overlap add up. -/
theorem or_eq_add_of_dvd {k m n : Nat} (hm : 2 ^ k ∣ m) (hn : n < 2 ^ k) : m ||| n = m + n := by
  obtain ⟨c, rfl⟩ := hm
  exact (Nat.two_pow_add_eq_or_of_lt hn c).symm

theorem toNat_regAt (r : VReg) {lo : Nat} (h : lo ≤ 29) : (regAt r lo).toNat = r.val * 2 ^ lo := by
  have hlo : 2 ^ lo ≤ 2 ^ 29 := Nat.pow_le_pow_right (by omega) h
  have hr : r.val * 2 ^ lo ≤ 7 * 2 ^ 29 := Nat.mul_le_mul (by omega) hlo
  rw [regAt, BitVec.toNat_shiftLeft, BitVec.toNat_ofNat, Nat.mod_eq_of_lt (a := r.val) (by omega), Nat.shiftLeft_eq,
    Nat.mod_eq_of_lt (by omega)]

theorem toNat_opAt (op : BitVec 6) : (op.setWidth 32 <<< 26 : Word).toNat = op.toNat * 2 ^ 26 := by
  rw [BitVec.toNat_shiftLeft, BitVec.toNat_setWidth, Nat.shiftLeft_eq]
  omega

theorem toNat_formatR (op : BitVec 6) (d a b : VReg) (ms : BitVec 2) (z : BitVec 15) :
    (formatR op d a b ms z).toNat =
      op.toNat * 2 ^ 26 + d.val * 2 ^ 23 + a.val * 2 ^ 20 + b.val * 2 ^ 17 + ms.toNat * 2 ^ 15 + z.toNat := by
  have hms : (ms.setWidth 32 <<< 15 : Word).toNat = ms.toNat * 2 ^ 15 := by
    rw [BitVec.toNat_shiftLeft, BitVec.toNat_setWidth, Nat.shiftLeft_eq]
    omega
  have hz : (z.setWidth 32).toNat = z.toNat := by rw [BitVec.toNat_setWidth]; omega
  simp only [formatR, BitVec.toNat_or, toNat_opAt, toNat_regAt, hms, hz, Nat.reduceLeDiff]
  rw [or_eq_add_of_dvd (k := 26) (n := d.val * 2 ^ 23) (by omega) (by omega),
    or_eq_add_of_dvd (k := 23) (n := a.val * 2 ^ 20) (by omega) (by omega),
    or_eq_add_of_dvd (k := 20) (n := b.val * 2 ^ 17) (by omega) (by omega),
    or_eq_add_of_dvd (k := 17) (n := ms.toNat * 2 ^ 15) (by omega) (by omega),
    or_eq_add_of_dvd (k := 15) (by omega) (by omega)]

theorem toNat_formatI (op : BitVec 6) (d : VReg) (x : BitVec 23) :
    (formatI op d x).toNat = op.toNat * 2 ^ 26 + d.val * 2 ^ 23 + x.toNat := by
  have hx : (x.setWidth 32).toNat = x.toNat := by rw [BitVec.toNat_setWidth]; omega
  simp only [formatI, BitVec.toNat_or, toNat_opAt, toNat_regAt, hx, Nat.reduceLeDiff]
  rw [or_eq_add_of_dvd (k := 26) (n := d.val * 2 ^ 23) (by omega) (by omega),
    or_eq_add_of_dvd (k := 23) (by omega) (by omega)]

/-! ### A word gives its fields back -/

section FormatR

variable (op : BitVec 6) (d a b : VReg) (ms : BitVec 2) (z : BitVec 15)

@[simp] theorem opField_formatR : opField (formatR op d a b ms z) = op := by
  refine BitVec.eq_of_toNat_eq ?_
  rw [toNat_opField, toNat_formatR]
  omega

@[simp] theorem vdField_formatR : vdField (formatR op d a b ms z) = d := by
  rw [vdField_eq, toNat_formatR, Fin.ext_iff, Fin.val_ofNat]
  omega

@[simp] theorem vaField_formatR : vaField (formatR op d a b ms z) = a := by
  rw [vaField_eq, toNat_formatR, Fin.ext_iff, Fin.val_ofNat]
  omega

@[simp] theorem vbField_formatR : vbField (formatR op d a b ms z) = b := by
  rw [vbField_eq, toNat_formatR, Fin.ext_iff, Fin.val_ofNat]
  omega

@[simp] theorem msField_formatR : msField (formatR op d a b ms z) = ms := by
  refine BitVec.eq_of_toNat_eq ?_
  rw [toNat_msField, toNat_formatR]
  omega

@[simp] theorem zeroField_formatR : zeroField (formatR op d a b ms z) = z := by
  refine BitVec.eq_of_toNat_eq ?_
  rw [toNat_zeroField, toNat_formatR]
  omega

end FormatR

section FormatI

variable (op : BitVec 6) (d : VReg) (x : BitVec 23)

@[simp] theorem opField_formatI : opField (formatI op d x) = op := by
  refine BitVec.eq_of_toNat_eq ?_
  rw [toNat_opField, toNat_formatI]
  omega

@[simp] theorem vdField_formatI : vdField (formatI op d x) = d := by
  rw [vdField_eq, toNat_formatI, Fin.ext_iff, Fin.val_ofNat]
  omega

@[simp] theorem immField_formatI : immField (formatI op d x) = x.toInt := by
  rw [immField]
  refine congrArg BitVec.toInt (BitVec.eq_of_toNat_eq ?_)
  rw [BitVec.extractLsb'_toNat, toNat_formatI, Nat.shiftRight_zero]
  omega

end FormatI

/-- A word is the word of format R with its own fields. -/
theorem formatR_fields (w : Word) :
    formatR (opField w) (vdField w) (vaField w) (vbField w) (msField w) (zeroField w) = w := by
  refine BitVec.eq_of_toNat_eq ?_
  rw [toNat_formatR, toNat_opField, vdField_eq, vaField_eq, vbField_eq, toNat_msField, toNat_zeroField]
  simp only [Fin.val_ofNat]
  omega

/-- A word is the word of format I with its own fields. -/
theorem formatI_fields (w : Word) : formatI (opField w) (vdField w) (BitVec.ofInt 23 (immField w)) = w := by
  refine BitVec.eq_of_toNat_eq ?_
  rw [immField, BitVec.ofInt_toInt, toNat_formatI, toNat_opField, vdField_eq, BitVec.extractLsb'_toNat,
    Nat.shiftRight_zero, Fin.val_ofNat]
  omega

/-! ### The encoder's words -/

section Encode

variable (d a b : VReg) (ms : Ms) (imm : Int)

theorem encode_conv : encode (.conv d a b) = formatR 0x01 d a b 0 0 := by simp [encode, formatR]

theorem encode_add : encode (.add d a b) = formatR 0x02 d a b 0 0 := by simp [encode, formatR]

theorem encode_bmod : encode (.bmod d a ms) = formatR 0x03 d a 0 (bitsOfMs ms) 0 := by
  simp [encode, formatR, regAt, msAt]

theorem encode_invp : encode (.invp d a ms) = formatR 0x04 d a 0 (bitsOfMs ms) 0 := by
  simp [encode, formatR, regAt, msAt]

theorem encode_inv2k : encode (.inv2k d a ms) = formatR 0x05 d a 0 (bitsOfMs ms) 0 := by
  simp [encode, formatR, regAt, msAt]

theorem encode_mov : encode (.mov d a) = formatR 0x06 d a 0 0 0 := by simp [encode, formatR, regAt]

theorem encode_ldc : encode (.ldc d imm) = formatI 0x07 d (BitVec.ofInt 23 imm) := rfl

end Encode

end Sys2Proof
end

section
/-! The claims about the decoder and the encoder (R96 to R101): a command's word by its fields, and
back; the decoder in the arithmetic of R99; what an illegal word does. -/

namespace Sys2Proof

open Sys2Proof.Machine Host.Outcome

theorem termIfZero_eq_term {zeros : Bool} {i j : Instr} : termIfZero zeros i = .term j ↔ zeros = true ∧ i = j := by
  cases zeros <;> simp [termIfZero]

/-! ### The round trips -/

/-- A well-formed command's word decodes to the command (R100). -/
theorem decode_encode {i : Instr} (h : i.wellFormed = true) : decode (encode i) = .term i := by
  cases i with
  | conv d a b => rw [encode_conv]; simp [decode, termIfZero]
  | add d a b => rw [encode_add]; simp [decode, termIfZero]
  | bmod d a ms => rw [encode_bmod]; simp [decode, termIfZero]
  | invp d a ms => rw [encode_invp]; simp [decode, termIfZero]
  | inv2k d a ms => rw [encode_inv2k]; simp [decode, termIfZero]
  | mov d a => rw [encode_mov]; simp [decode, termIfZero]
  | ldc d imm =>
    obtain ⟨hlo, hhi⟩ : -4194304 ≤ imm ∧ imm ≤ 4194303 := by simpa [Instr.wellFormed, immOk] using h
    have himm : (BitVec.ofInt 23 imm).toInt = imm := BitVec.toInt_ofInt_eq_self (by omega) (by omega) (by omega)
    rw [encode_ldc]
    simp [decode, himm]

/-- A command of format R that passes its must-be-zero check is encoded by the word it was read from. -/
theorem encode_of_termIfZero {w : Word} {zeros : Bool} {i j : Instr} {op : BitVec 6} {b : VReg} {ms : BitVec 2}
    {z : BitVec 15} (hi : encode i = formatR op (vdField w) (vaField w) b ms z)
    (h : termIfZero zeros i = .term j) (hop : (opField w).toNat = op.toNat)
    (hzeros : zeros = true → vbField w = b ∧ msField w = ms ∧ zeroField w = z) : encode j = w := by
  obtain ⟨hz, rfl⟩ := termIfZero_eq_term.1 h
  obtain ⟨rfl, rfl, rfl⟩ := hzeros hz
  rw [hi, ← BitVec.eq_of_toNat_eq hop, formatR_fields]

/-- A word that decodes to a command is the command's own (R97, R99). -/
theorem encode_of_decode {w : Word} {i : Instr} (h : decode w = .term i) : encode i = w := by
  unfold decode at h
  split at h
  case h_1 hop => exact encode_of_termIfZero (encode_conv ..) h hop (by simp)
  case h_2 hop => exact encode_of_termIfZero (encode_add ..) h hop (by simp)
  case h_3 hop => exact encode_of_termIfZero (encode_bmod ..) h hop (by simp)
  case h_4 hop => exact encode_of_termIfZero (encode_invp ..) h hop (by simp)
  case h_5 hop => exact encode_of_termIfZero (encode_inv2k ..) h hop (by simp)
  case h_6 hop => exact encode_of_termIfZero (encode_mov ..) h hop (by simp [and_assoc])
  case h_7 hop =>
    cases h
    have hop : opField w = 0x07 := BitVec.eq_of_toNat_eq hop
    rw [encode_ldc, ← hop, formatI_fields]
  case h_8 => cases h

/-- Only LDC's constant has a range to keep, and the decoder reads 23 bits of it (R95). -/
theorem wellFormed_of_decode {w : Word} {i : Instr} (h : decode w = .term i) : i.wellFormed = true := by
  cases i with
  | ldc d imm =>
    rw [decode] at h
    split at h
    case h_7 => cases h; exact immOk_immField w
    case h_8 => cases h
    all_goals exact nomatch (termIfZero_eq_term.1 h).2
  | _ => rfl

/-- Settles O2: decoding inverts encoding, and the fields of the encoder's words add up. -/
theorem decodeInvertsEncode : Obligations.DecodeInvertsEncode := by
  refine ⟨fun i => decode_encode, fun d a b => ⟨?_, ?_⟩, fun d a ms => ⟨?_, ?_, ?_⟩, fun d a => ?_, fun d imm => ?_⟩
  · simp [encode_conv, toNat_formatR]
  · simp [encode_add, toNat_formatR]
  · simp [encode_bmod, toNat_formatR]
  · simp [encode_invp, toNat_formatR]
  · simp [encode_inv2k, toNat_formatR]
  · simp [encode_mov, toNat_formatR]
  · simp [encode_ldc, toNat_formatI, BitVec.toNat_ofInt]

/-- Settles O3, from the decoder's cases. -/
theorem legalWordIsItsEncoding : Obligations.LegalWordIsItsEncoding :=
  fun _ _ h => ⟨wellFormed_of_decode h, encode_of_decode h⟩

/-! ### The rows of the opcode table -/

/-- Every command's encoding matches its row (R96). -/
theorem encode_and_rowMask (i : Instr) :
    encode i &&& Laws.OpcodeRow.rowMask i = Laws.OpcodeRow.rowMatch i := by
  cases i with
  | conv d a b => exact (Laws.OpcodeRow.conv d a b).1
  | add d a b => exact (Laws.OpcodeRow.add d a b).1
  | bmod d a ms => exact (Laws.OpcodeRow.bmod d a ms).1
  | invp d a ms => exact (Laws.OpcodeRow.invp d a ms).1
  | inv2k d a ms => exact (Laws.OpcodeRow.inv2k d a ms).1
  | mov d a => exact (Laws.OpcodeRow.mov d a).1
  | ldc d imm => exact (Laws.OpcodeRow.ldc d imm).1

/-- A word that decodes to a command matches the command's row. -/
theorem matches_of_decode {w : Word} {i : Instr} (h : decode w = .term i) :
    w &&& Laws.OpcodeRow.rowMask i = Laws.OpcodeRow.rowMatch i := by
  rw [← encode_of_decode h]
  exact encode_and_rowMask i

/-- A field that the mask covers is fixed by the match. -/
theorem extractLsb'_eq_of_and_eq {w mask m : Word} {lo len : Nat} (h : w &&& mask = m)
    (hmask : mask.extractLsb' lo len = BitVec.allOnes len) : w.extractLsb' lo len = m.extractLsb' lo len := by
  rw [← h, BitVec.extractLsb'_and, hmask, BitVec.and_allOnes]

/-- CONV's and ADD's mask covers op, ms and zero. -/
theorem fields_of_three_registers {w m : Word} (h : w &&& 0xFC01FFFF#32 = m) :
    opField w = opField m ∧ msField w = msField m ∧ zeroField w = zeroField m :=
  ⟨extractLsb'_eq_of_and_eq h (by decide), extractLsb'_eq_of_and_eq h (by decide),
    extractLsb'_eq_of_and_eq h (by decide)⟩

/-- The mask of the three commands with a modulus covers op, vb and zero. -/
theorem fields_of_modulus {w m : Word} (h : w &&& 0xFC0E7FFF#32 = m) :
    opField w = opField m ∧ vbField w = vbField m ∧ zeroField w = zeroField m :=
  ⟨extractLsb'_eq_of_and_eq h (by decide), congrArg BitVec.toFin (extractLsb'_eq_of_and_eq h (by decide)),
    extractLsb'_eq_of_and_eq h (by decide)⟩

/-- MOV's mask covers all but vd and va. -/
theorem fields_of_two_registers {w m : Word} (h : w &&& 0xFC0FFFFF#32 = m) :
    opField w = opField m ∧ vbField w = vbField m ∧ msField w = msField m ∧ zeroField w = zeroField m :=
  ⟨extractLsb'_eq_of_and_eq h (by decide), congrArg BitVec.toFin (extractLsb'_eq_of_and_eq h (by decide)),
    extractLsb'_eq_of_and_eq h (by decide), extractLsb'_eq_of_and_eq h (by decide)⟩

/-- A word whose op has no mnemonic is illegal (R98). -/
theorem decode_undefinedOp {w : Word} (h : w.toNat / 2 ^ 26 = 0 ∨ 0x08 ≤ w.toNat / 2 ^ 26) :
    decode w = .illegal .undefinedOp := by
  rw [← toNat_opField] at h
  rw [decode]
  split
  case h_8 => rfl
  all_goals omega

/-- Settles O4: a command's word matches its row; a match gives op and the must-be-zero fields. -/
theorem wordsMatchTheOpcodeTable : Obligations.WordsMatchTheOpcodeTable := by
  refine fun w => ⟨⟨fun ⟨_, _, _, h⟩ => matches_of_decode h, fun h => ?_⟩,
    ⟨fun ⟨_, _, _, h⟩ => matches_of_decode h, fun h => ?_⟩, ⟨fun ⟨_, _, _, h⟩ => matches_of_decode h, fun h => ?_⟩,
    ⟨fun ⟨_, _, _, h⟩ => matches_of_decode h, fun h => ?_⟩, ⟨fun ⟨_, _, _, h⟩ => matches_of_decode h, fun h => ?_⟩,
    ⟨fun ⟨_, _, h⟩ => matches_of_decode h, fun h => ?_⟩, ⟨fun ⟨_, _, h⟩ => matches_of_decode h, fun h => ?_⟩,
    fun h i hi => nomatch (decode_undefinedOp h).symm.trans hi⟩
  · obtain ⟨hop, hms, hz⟩ : opField w = 0x01 ∧ msField w = 0 ∧ zeroField w = 0 := fields_of_three_registers h
    exact ⟨vdField w, vaField w, vbField w, by simp [decode, hop, hms, hz, termIfZero]⟩
  · obtain ⟨hop, hms, hz⟩ : opField w = 0x02 ∧ msField w = 0 ∧ zeroField w = 0 := fields_of_three_registers h
    exact ⟨vdField w, vaField w, vbField w, by simp [decode, hop, hms, hz, termIfZero]⟩
  · obtain ⟨hop, hb, hz⟩ : opField w = 0x03 ∧ vbField w = 0 ∧ zeroField w = 0 := fields_of_modulus h
    exact ⟨vdField w, vaField w, msOfBits (msField w), by simp [decode, hop, hb, hz, termIfZero]⟩
  · obtain ⟨hop, hb, hz⟩ : opField w = 0x04 ∧ vbField w = 0 ∧ zeroField w = 0 := fields_of_modulus h
    exact ⟨vdField w, vaField w, msOfBits (msField w), by simp [decode, hop, hb, hz, termIfZero]⟩
  · obtain ⟨hop, hb, hz⟩ : opField w = 0x05 ∧ vbField w = 0 ∧ zeroField w = 0 := fields_of_modulus h
    exact ⟨vdField w, vaField w, msOfBits (msField w), by simp [decode, hop, hb, hz, termIfZero]⟩
  · obtain ⟨hop, hb, hms, hz⟩ : opField w = 0x06 ∧ vbField w = 0 ∧ msField w = 0 ∧ zeroField w = 0 :=
      fields_of_two_registers h
    exact ⟨vdField w, vaField w, by simp [decode, hop, hb, hms, hz, termIfZero]⟩
  · have hop : opField w = 0x07 := extractLsb'_eq_of_and_eq h (by decide)
    exact ⟨vdField w, immField w, by simp [decode, hop]⟩

/-! ### The decoder by arithmetic -/

/-- Settles O5: each field as its digit of the word, then op by op. -/
theorem decoderReadsTheFields : Obligations.DecoderReadsTheFields := by
  intro w
  dsimp only
  rw [← toNat_opField, ← vdField_eq, ← vaField_eq, ← vbField_eq, ← toNat_msField, ← toNat_zeroField, ← immField_eq,
    ← msOfBits_eq, decode]
  split <;> simp_all [termIfZero, BitVec.toNat_eq, and_assoc]

/-- A word of a legal op with a nonzero must-be-zero field is illegal (R97). -/
theorem decode_mustBeZero {w : Word}
    (h : ((w.toNat / 2 ^ 26 = 0x01 ∨ w.toNat / 2 ^ 26 = 0x02) ∧ ¬ (w.toNat / 2 ^ 15 % 4 = 0 ∧ w.toNat % 2 ^ 15 = 0)) ∨
      ((w.toNat / 2 ^ 26 = 0x03 ∨ w.toNat / 2 ^ 26 = 0x04 ∨ w.toNat / 2 ^ 26 = 0x05) ∧
        ¬ (w.toNat / 2 ^ 17 % 8 = 0 ∧ w.toNat % 2 ^ 15 = 0)) ∨
      (w.toNat / 2 ^ 26 = 0x06 ∧
        ¬ (w.toNat / 2 ^ 17 % 8 = 0 ∧ w.toNat / 2 ^ 15 % 4 = 0 ∧ w.toNat % 2 ^ 15 = 0))) :
    decode w = .illegal .mustBeZero := by
  have hvb : w.toNat / 2 ^ 17 % 8 = 0 ↔ Fin.ofNat 8 (w.toNat / 2 ^ 17) = 0 := by
    simp only [Fin.ext_iff, Fin.val_ofNat, Fin.val_zero]
  rw [hvb] at h
  rw [decoderReadsTheFields w]
  obtain ⟨hop | hop, hz⟩ | ⟨hop | hop | hop, hz⟩ | ⟨hop, hz⟩ := h
  all_goals simp only [hop, hz, Nat.reduceEqDiff, if_true, if_false]

/-- An idle PRAU with ERR = 0 accepts (R200). -/
theorem issueCmd_accepted {s : State} (w : Word) (hp : s.pending = .none) (he : s.err = false) :
    issueCmd w s = acceptCmd w s := by
  simp [issueCmd, busy_eq_false.2 hp, he]

/-- Settles O6: the word decodes to no command, the Host's write is accepted, the Unit reports ILLEGAL_CMD. -/
theorem illegalWordCompletesWithIllegalCmd : Obligations.IllegalWordCompletesWithIllegalCmd := by
  intro s w rest hr hp he hin hw
  obtain ⟨why, hd⟩ : ∃ why, decode w = .illegal why := by
    obtain hw | hw | hw := hw
    · exact ⟨_, decode_undefinedOp (.inl hw)⟩
    · exact ⟨_, decode_undefinedOp (.inr hw)⟩
    · exact ⟨_, decode_mustBeZero hw⟩
  have hissue : step s = next (setBus (some (.write false)) (acceptCmd w (setInputs (.unit :: rest) s))) := by
    rw [step_blockWrite .cmd hr hin, blockWrite, issueCmd_accepted w (by simpa using hp) (by simpa using he)]
  rw [run_succ 1 hissue]
  refine run_succ 0 ((step_unit rfl).trans (unitStep_illegal ?_ rfl hd))
  simpa using hr

/-- Settles O1: thirteen fixed words. -/
theorem exampleWordsDecode : Obligations.ExampleWordsDecode := by
  unfold Obligations.ExampleWordsDecode
  decide

end Sys2Proof
end

section
/-! The convolution as R125's double sum, and the commands that write back a list of N
coefficients in the terms of R120 to R122. -/

namespace Sys2Proof.Machine

open Finset Host.Outcome

/-! ### The convolution -/

/-- A dot product as a sum: places beyond either list count 0. -/
theorem dot_eq_sum (a r : List Int) : dot a r = ∑ i ∈ range a.length, a.getD i 0 * r.getD i 0 := by
  induction a generalizing r with
  | nil => cases r <;> rfl
  | cons x xs ih =>
    cases r with
    | nil => simp [dot]
    | cons y ys => simp [dot, ih, sum_range_succ', add_comm]

/-- The place j that meets place i in place k of the cyclic product (R125). -/
def meets (n k i : Nat) : Nat := if i ≤ k then k - i else n + k - i

theorem meets_lt {n k i : Nat} (hk : k < n) (hi : i < n) : meets n k i < n := by
  unfold meets
  split <;> omega

/-- R125's condition on i and j, solved for j. -/
theorem add_mod_eq_iff {n k i j : Nat} (hk : k < n) (hi : i < n) (hj : j < n) :
    (i + j) % n = k ↔ meets n k i = j := by
  have hmod : (i + j) % n = if i + j < n then i + j else i + j - n := by
    split
    · exact Nat.mod_eq_of_lt ‹_›
    · rw [Nat.mod_eq_sub_mod (by omega), Nat.mod_eq_of_lt (by omega)]
  rw [hmod, meets]
  split <;> split <;> omega

/-- Place i of the row for place k (R125). -/
theorem getD_convRow {n k i : Nat} {b : List Int} (hb : b.length = n) (hk : k < n) (hi : i < n) :
    (convRow n k b.reverse).getD i 0 = b.getD (meets n k i) 0 := by
  subst hb
  rw [convRow, meets, List.getD_eq_getElem?_getD, List.getD_eq_getElem?_getD]
  congr 1
  by_cases hik : i ≤ k
  · rw [List.getElem?_append_left (by simp; omega), List.getElem?_drop, List.getElem?_reverse (by omega),
      if_pos hik]
    congr 1
    omega
  · rw [List.getElem?_append_right (by simp; omega), List.getElem?_take_of_lt (by simp; omega), List.length_drop,
      List.length_reverse, List.getElem?_reverse (by omega), if_neg hik]
    congr 1
    omega

/-- A coefficient of the model's convolution is the spec's double sum (R125). -/
theorem getD_cycConv {n k : Nat} {a b : List Int} (ha : a.length = n) (hb : b.length = n) (hk : k < n) :
    (cycConv n a b).getD k 0 = ringProduct n (a.getD · 0) (b.getD · 0) k := by
  have hrow : (cycConv n a b).getD k 0 = dot a (convRow n k b.reverse) := by simp [cycConv, hk]
  rw [hrow, dot_eq_sum, ha]
  refine sum_congr rfl fun i hi => ?_
  have hi := mem_range.1 hi
  calc a.getD i 0 * (convRow n k b.reverse).getD i 0
      = a.getD i 0 * b.getD (meets n k i) 0 := by rw [getD_convRow hb hk hi]
    _ = ∑ j ∈ range n, if meets n k i = j then a.getD i 0 * b.getD j 0 else 0 := by
      rw [sum_ite_eq, if_pos (mem_range.2 (meets_lt hk hi))]
    _ = ∑ j ∈ range n, if (i + j) % n = k then a.getD i 0 * b.getD j 0 else 0 :=
      sum_congr rfl fun j hj => by simp only [add_mod_eq_iff hk hi (mem_range.1 hj)]

/-- The ring product reads its factors below n alone (R125). -/
theorem ringProduct_congr {n : Nat} {a a' b b' : Nat → Int} (ha : ∀ i < n, a i = a' i) (hb : ∀ i < n, b i = b' i)
    (k : Nat) : ringProduct n a b k = ringProduct n a' b' k :=
  sum_congr rfl fun i hi => sum_congr rfl fun j hj => by rw [ha i (mem_range.1 hi), hb j (mem_range.1 hj)]

/-- A product with a constant polynomial (R12) scales each coefficient. -/
theorem ringProduct_const {n k : Nat} (a : Nat → Int) (c : Int) (hk : k < n) :
    ringProduct n a (fun j => if j = 0 then c else 0) k = c * a k := by
  have hinner (i : Nat) (hi : i ∈ range n) :
      (∑ j ∈ range n, if (i + j) % n = k then a i * (if j = 0 then c else 0) else 0) = if k = i then c * a i else 0 := by
    rw [sum_eq_single_of_mem 0 (mem_range.2 (by omega)) fun j _ hj => by simp [hj], Nat.add_zero,
      Nat.mod_eq_of_lt (mem_range.1 hi), if_pos rfl, mul_comm]
    simp only [eq_comm]
  rw [ringProduct, sum_congr rfl hinner, sum_ite_eq, if_pos (mem_range.2 hk)]

/-! ### Commands that write back a list -/

theorem fitsCW_of_fits {c : Int} (h : Fits c) : fitsCW c = true := (fitsCW_iff c).2 h

section Commit

variable {res : List Int} {f : Nat → Int} {n : Nat} (s : State) (vd : VReg) (hlen : res.length = n)
  (hres : ∀ k < n, res.getD k 0 = f k) (hfit : ∀ k < n, Fits (f k))
include hlen hres hfit

/-- What a command of result res leaves in the memory, where its coefficients fit (R121, R122). -/
theorem wroteBack_writeBack : WroteBack s.v (writeBack vd res s).v vd n f where
  lower k hk := by
    rw [← State.slot, slot_writeBack, if_pos rfl, hres k hk, toInt_ofInt_of_fits (fitsCW_of_fits (hfit k hk))]
  upper k hk := by
    rw [← State.slot, slot_writeBack, if_pos rfl, List.getD_eq_default _ _ (by omega)]
    rfl
  others r hr := by rw [writeBack_v, Memory.reg_set_other _ _ hr]

/-- A command that commits the coefficients f (R121, R202). -/
theorem commit_wroteBack :
    ∃ v, commit vd res s = next { s with v := v, done := true, pending := .none } ∧ WroteBack s.v v vd n f :=
  ⟨_, rfl, wroteBack_writeBack s vd hlen hres hfit⟩

/-- A command that passes CheckFit commits (R122). -/
theorem commitChecked_of_fits : commitChecked vd res s = commit vd res s := by
  have hall : res.all fitsCW = true := by
    rw [List.all_eq_true]
    intro c hc
    obtain ⟨k, hk, rfl⟩ := List.getElem_of_mem hc
    rw [← List.getD_eq_getElem _ 0 hk, hres k (by omega)]
    exact fitsCW_of_fits (hfit k (by omega))
  rw [commitChecked, if_pos hall]

end Commit

theorem getD_constPoly (n : Nat) (c : Int) {k : Nat} (hk : k < n) :
    (constPoly n c).getD k 0 = if k = 0 then c else 0 := by
  simp [constPoly, hk]

/-- A constant of 23 bits fits in a coefficient (R95, R122). -/
theorem fits_of_immOk {imm : Int} (h : immOk imm = true) (k : Nat) : Fits (if k = 0 then imm else 0) := by
  obtain ⟨hlo, hhi⟩ : -4194304 ≤ imm ∧ imm ≤ 4194303 := by simpa [immOk] using h
  unfold Fits
  split <;> omega

/-- LDC leaves the constant in slot 0 and 0 in every other slot (R130). -/
theorem exec_ldc_wroteBack {s : State} {vd : VReg} {imm : Int} (hN : s.legalN) (himm : immOk imm = true) :
    ∃ v, exec (.ldc vd imm) s = next { s with v := v, done := true, pending := .none } ∧
      WroteBack s.v v vd s.degree (fun k => if k = 0 then imm else 0) := by
  rw [exec_ldc hN]
  exact commit_wroteBack s vd (length_constPoly ..) (fun k => getD_constPoly _ imm) fun k _ => fits_of_immOk himm k

/-- CONV leaves the ring product of its operands where it fits (R125, R126). -/
theorem exec_conv_wroteBack {s : State} {vd va vb : VReg} (hN : s.legalN)
    (hfit : ∀ k < s.degree, Fits (ringProduct s.degree (s.coef va) (s.coef vb) k)) :
    ∃ v, exec (.conv vd va vb) s = next { s with v := v, done := true, pending := .none } ∧
      WroteBack s.v v vd s.degree (ringProduct s.degree (s.coef va) (s.coef vb)) := by
  have hsrc (r : VReg) (i : Nat) (hi : i < s.degree) : (src s s.degree r).getD i 0 = s.coef r i :=
    (getD_src ..).trans (if_pos hi)
  have hres (k : Nat) (hk : k < s.degree) : (cycConv s.degree (src s s.degree va) (src s s.degree vb)).getD k 0 =
      ringProduct s.degree (s.coef va) (s.coef vb) k :=
    (getD_cycConv (length_src ..) (length_src ..) hk).trans (ringProduct_congr (hsrc va) (hsrc vb) k)
  have hlen := length_cycConv s.degree (src s s.degree va) (src s s.degree vb)
  rw [exec_conv hN]
  obtain ⟨v, hcommit, hv⟩ := commit_wroteBack s vd hlen hres hfit
  exact ⟨v, (commitChecked_of_fits s vd hlen hres hfit).trans hcommit, hv⟩

/-- Settles O26: LDC leaves the constant polynomial in vt and va alone, and the ring product with a
constant polynomial scales. -/
theorem scaleMultipliesByTheConstant : Obligations.ScaleMultipliesByTheConstant := by
  intro s vd va vt imm hne hN himm hfit
  obtain ⟨v, hldc, hv⟩ := exec_ldc_wroteBack hN himm (vd := vt)
  let t : State := { s with v := v, done := true, pending := .none }
  have hva : t.coef va = s.coef va := by
    funext k
    simp only [State.coef, State.slot, t, hv.others va hne.symm]
  have hprod (k : Nat) (hk : k < s.degree) : ringProduct s.degree (t.coef va) (t.coef vt) k = imm * s.coef va k := by
    rw [hva, ringProduct_congr (b := t.coef vt) (fun _ _ => rfl) hv.lower, ringProduct_const _ imm hk]
  obtain ⟨v', hconv, hv'⟩ := exec_conv_wroteBack (s := t) (vd := vd) (va := va) (vb := vt) hN
    fun k hk => (hprod k hk).symm ▸ hfit k hk
  exact ⟨rfl, t, v', hldc, hconv, fun k hk => (hv'.lower k hk).trans (hprod k hk), hv'.upper, hv'.others⟩

end Sys2Proof.Machine
end

section
/-! The balanced residue (R123): it is the one balanced integer of its class, and what R124 lists
follows from that. -/

namespace Sys2Proof.Machine

theorem balmod_modEq (c : Int) (m : Nat) : balmod c m ≡ c [ZMOD m] := by
  simpa [balmod] using (Int.mod_modEq (c + (m / 2 : Nat)) m).sub_right (m / 2 : Nat)

theorem balanced_balmod (c : Int) {m : Nat} (hm : 1 ≤ m) : Balanced m (balmod c m) := by
  have hlo := Int.emod_nonneg (c + (m / 2 : Nat)) (show (m : Int) ≠ 0 by omega)
  have hhi := Int.emod_lt_of_pos (c + (m / 2 : Nat)) (show (0 : Int) < m by omega)
  unfold Balanced balmod
  omega

/-- A class holds one balanced integer: the interval of R123 is m long. -/
theorem Balanced.eq_of_modEq {m : Nat} {x y : Int} (hx : Balanced m x) (hy : Balanced m y) (h : x ≡ y [ZMOD m]) :
    x = y := by
  obtain ⟨hxlo, hxhi⟩ := hx
  obtain ⟨hylo, hyhi⟩ := hy
  exact (sub_eq_zero.1 (Int.eq_zero_of_abs_lt_dvd h.dvd (by rw [abs_lt]; omega))).symm

/-- R123's result is known by its interval and its class. -/
theorem balmod_eq_of_balanced {m : Nat} {c x : Int} (hm : 1 ≤ m) (hx : Balanced m x) (h : x ≡ c [ZMOD m]) :
    balmod c m = x :=
  (balanced_balmod c hm).eq_of_modEq hx ((balmod_modEq c m).trans h.symm)

theorem balmod_of_balanced {m : Nat} {c : Int} (hm : 1 ≤ m) (hc : Balanced m c) : balmod c m = c :=
  balmod_eq_of_balanced hm hc rfl

/-- The balanced interval of a 32-bit modulus (R124). -/
theorem Balanced.bounds {m : Nat} {c : Int} (hc : Balanced m c) (hm : m < 2 ^ 32) :
    -2 ^ 31 ≤ c ∧ c ≤ 2 ^ 31 - 1 := by
  unfold Balanced at hc
  omega

theorem Balanced.fits {m : Nat} {c : Int} (hc : Balanced m c) (hm : m < 2 ^ 32) : Fits c := by
  obtain ⟨hlo, hhi⟩ := hc.bounds hm
  unfold Fits
  omega

/-- Settles O21, from the balanced interval and the class of the residue. -/
theorem balancedResidueByFloorMod : Obligations.BalancedResidueByFloorMod := by
  intro c m hm
  obtain ⟨hlo, hhi⟩ := balanced_balmod c hm
  refine ⟨?_, fun hodd => ?_, fun heven => ?_, balmod_modEq c m⟩
  · rw [Int.fmod_eq_emod_of_nonneg _ (Int.natCast_nonneg m), Int.fdiv_eq_ediv_of_nonneg _ (by decide)]
    rfl
  · omega
  · omega

/-- Settles O22: each consequence names a balanced integer of the class. -/
theorem balancedResidueConsequences : Obligations.BalancedResidueConsequences := by
  refine ⟨fun c => ?_, fun c => ⟨fun hodd => ?_, fun heven => ?_⟩, fun c m hm => ?_, fun c m => balmod_of_balanced,
    fun q hq => ?_, fun h hh => ?_, fun c m _ _ hm hmax => ?_⟩
  · exact balmod_eq_of_balanced le_rfl (by simp [Balanced]) (by simp [Int.modEq_one])
  · exact balmod_eq_of_balanced (by decide) (by simp [Balanced]) (by simp [Int.ModEq, hodd])
  · exact balmod_eq_of_balanced (by decide) (by simp [Balanced]) (by simp [Int.ModEq, heven])
  · exact balmod_of_balanced hm (balanced_balmod c hm)
  · exact balmod_of_balanced (by omega) (by unfold Balanced; omega)
  · refine balmod_eq_of_balanced (by omega) (by unfold Balanced; omega) ?_
    exact Int.modEq_iff_dvd.2 ⟨1, by push_cast; ring⟩
  · have hbal := balanced_balmod c hm
    have hlt : m < 2 ^ 32 := by omega
    obtain ⟨hlo, hhi⟩ := hbal.bounds hlt
    exact ⟨hlo, hhi, hbal.fits hlt⟩

end Sys2Proof.Machine
end

section
/-! The laws of the cyclic product (R131), first for R125's double sum, then for the lists the model
computes with. -/

namespace Sys2Proof.Machine

open Finset

/-! ### The double sum -/

theorem ringProduct_comm (n : Nat) (a b : Nat → Int) (k : Nat) : ringProduct n a b k = ringProduct n b a k := by
  unfold ringProduct
  rw [sum_comm]
  simp only [add_comm, mul_comm]

theorem ringProduct_add (n : Nat) (a b c : Nat → Int) (k : Nat) :
    ringProduct n a (fun j => b j + c j) k = ringProduct n a b k + ringProduct n a c k := by
  simp only [ringProduct, ← sum_add_distrib, mul_add]
  refine sum_congr rfl fun i _ => sum_congr rfl fun j _ => ?_
  split <;> simp

/-- A product of three factors as a triple sum: the exponents that add up to k modulo n. -/
theorem ringProduct_ringProduct {n k : Nat} (a b c : Nat → Int) :
    ringProduct n a (ringProduct n b c) k =
      ∑ i ∈ range n, ∑ p ∈ range n, ∑ q ∈ range n, if (i + p + q) % n = k then a i * b p * c q else 0 := by
  refine sum_congr rfl fun i hi => ?_
  have hn : 0 < n := by have := mem_range.1 hi; omega
  calc (∑ j ∈ range n, if (i + j) % n = k then a i * ringProduct n b c j else 0)
      = ∑ j ∈ range n, ∑ p ∈ range n, ∑ q ∈ range n,
          if (p + q) % n = j then (if (i + j) % n = k then a i * b p * c q else 0) else 0 := by
        refine sum_congr rfl fun j _ => ?_
        split <;> simp [ringProduct, mul_sum, mul_assoc]
    _ = ∑ p ∈ range n, ∑ q ∈ range n, ∑ j ∈ range n,
          if (p + q) % n = j then (if (i + j) % n = k then a i * b p * c q else 0) else 0 := by
        rw [sum_comm]
        exact sum_congr rfl fun p _ => sum_comm
    _ = ∑ p ∈ range n, ∑ q ∈ range n, if (i + p + q) % n = k then a i * b p * c q else 0 := by
        refine sum_congr rfl fun p _ => sum_congr rfl fun q _ => ?_
        rw [sum_ite_eq, if_pos (mem_range.2 (Nat.mod_lt _ hn)), Nat.add_mod_mod, add_assoc]

theorem ringProduct_assoc (n : Nat) (a b c : Nat → Int) (k : Nat) :
    ringProduct n a (ringProduct n b c) k = ringProduct n (ringProduct n a b) c k := by
  rw [ringProduct_comm n _ c, ringProduct_ringProduct, ringProduct_ringProduct]
  calc (∑ i ∈ range n, ∑ p ∈ range n, ∑ q ∈ range n, if (i + p + q) % n = k then a i * b p * c q else 0)
      = ∑ i ∈ range n, ∑ q ∈ range n, ∑ p ∈ range n, if (q + i + p) % n = k then c q * a i * b p else 0 := by
        refine sum_congr rfl fun i _ => sum_comm.trans (sum_congr rfl fun q _ => sum_congr rfl fun p _ => ?_)
        rw [show i + p + q = q + i + p by omega, show a i * b p * c q = c q * a i * b p by ring]
    _ = ∑ q ∈ range n, ∑ i ∈ range n, ∑ p ∈ range n, if (q + i + p) % n = k then c q * a i * b p else 0 := sum_comm

/-- ONE (R12) is the identity. -/
theorem ringProduct_one {n k : Nat} (a : Nat → Int) (hk : k < n) : ringProduct n a oneCoef k = a k :=
  (ringProduct_const a 1 hk).trans (one_mul _)

/-! ### Lists of n coefficients -/

theorem getD_onePoly (n : Nat) {k : Nat} (hk : k < n) : (onePoly n).getD k 0 = oneCoef k := getD_constPoly n 1 hk

/-- Polynomials of length n are equal when their n coefficients are. -/
theorem eq_of_getD_eq {n : Nat} {a b : List Int} (ha : a.length = n) (hb : b.length = n)
    (h : ∀ k < n, a.getD k 0 = b.getD k 0) : a = b := by
  refine List.ext_getElem (ha.trans hb.symm) fun k hk hk' => ?_
  rw [← List.getD_eq_getElem _ 0 hk, ← List.getD_eq_getElem _ 0 hk', h k (ha ▸ hk)]

theorem getD_zipWith {n k : Nat} (f : Int → Int → Int) {a b : List Int} (ha : a.length = n) (hb : b.length = n)
    (hk : k < n) : (List.zipWith f a b).getD k 0 = f (a.getD k 0) (b.getD k 0) := by
  subst ha
  simp [List.getD_eq_getElem?_getD, hk, hb]

/-- Settles O25: each law is the double sum's, coefficient by coefficient. -/
theorem convolutionIsARingProduct : Obligations.ConvolutionIsARingProduct := by
  intro n a b c ha hb hc
  have hlen (x y : List Int) := length_cycConv n x y
  have hsum : (List.zipWith (· + ·) b c).length = n := by simp [hb, hc]
  refine ⟨hlen a b, eq_of_getD_eq (hlen ..) (hlen ..) fun k hk => ?_, eq_of_getD_eq (hlen ..) (hlen ..) fun k hk => ?_,
    eq_of_getD_eq (hlen ..) (by simp) fun k hk => ?_, eq_of_getD_eq (hlen ..) ha fun k hk => ?_⟩
  · rw [getD_cycConv ha (hlen b c) hk, getD_cycConv (hlen a b) hc hk,
      ringProduct_congr (fun _ _ => rfl) fun _ => getD_cycConv hb hc, ringProduct_assoc,
      ringProduct_congr (fun _ => getD_cycConv ha hb) fun _ _ => rfl]
  · rw [getD_cycConv ha hb hk, getD_cycConv hb ha hk, ringProduct_comm]
  · rw [getD_cycConv ha hsum hk, ringProduct_congr (fun _ _ => rfl) fun _ => getD_zipWith (· + ·) hb hc,
      ringProduct_add, getD_zipWith (· + ·) (hlen ..) (hlen ..) hk, getD_cycConv ha hb hk, getD_cycConv ha hc hk]
  · rw [getD_cycConv ha (length_onePoly n) hk, ringProduct_congr (fun _ _ => rfl) fun _ => getD_onePoly n,
      ringProduct_one _ hk]

end Sys2Proof.Machine
end

section
/-! The claims about CONV, ADD, BMOD, MOV and LDC (R122, R126 to R130): what each command's result
holds place by place, and what that leaves in the state. -/

namespace Sys2Proof.Machine

open Host.Outcome

/-! ### What a command's result holds -/

theorem getD_src_of_lt (s : State) (r : VReg) {k : Nat} (hk : k < s.degree) :
    (src s s.degree r).getD k 0 = s.coef r k :=
  (getD_src ..).trans (if_pos hk)

theorem getD_conv_src (s : State) (va vb : VReg) {k : Nat} (hk : k < s.degree) :
    (cycConv s.degree (src s s.degree va) (src s s.degree vb)).getD k 0 =
      ringProduct s.degree (s.coef va) (s.coef vb) k :=
  (getD_cycConv (length_src ..) (length_src ..) hk).trans
    (ringProduct_congr (fun _ => getD_src_of_lt s va) (fun _ => getD_src_of_lt s vb) k)

theorem getD_add_src (s : State) (va vb : VReg) {k : Nat} (hk : k < s.degree) :
    (List.zipWith (· + ·) (src s s.degree va) (src s s.degree vb)).getD k 0 = s.coef va k + s.coef vb k := by
  rw [getD_zipWith (· + ·) (length_src ..) (length_src ..) hk, getD_src_of_lt s va hk, getD_src_of_lt s vb hk]

theorem getD_bmod_src (s : State) (va : VReg) (m : Nat) {k : Nat} (hk : k < s.degree) :
    ((src s s.degree va).map fun c => balmod c m).getD k 0 = balmod (s.coef va k) m := by
  rw [← getD_src_of_lt s va hk]
  simp [List.getD_eq_getElem?_getD, hk]

/-- A coefficient of a register is a 64-bit integer (R10). -/
theorem fits_coef (s : State) (r : VReg) (k : Nat) : Fits (s.coef r k) :=
  ⟨BitVec.le_toInt _, Int.le_sub_one_of_lt (BitVec.toInt_lt ..)⟩

/-- Every modulus select reads a 32-bit modulus (R94). -/
theorem modSel_lt (s : State) (ms : Ms) : modSel s ms < 2 ^ 32 := by
  cases ms with
  | p => exact s.cfgP.isLt
  | q => exact s.cfgQ.isLt
  | m => exact s.cfgM.isLt
  | two => exact show 2 < 2 ^ 32 by decide

/-! ### Results that do not fit -/

/-- A command that fails CheckFit (R122). -/
theorem commitChecked_of_not_fits {res : List Int} {k : Nat} (s : State) (vd : VReg) (hk : k < res.length)
    (h : ¬ Fits (res.getD k 0)) : commitChecked vd res s = fail .overflow s := by
  refine if_neg fun hall => h ?_
  rw [List.getD_eq_getElem _ 0 hk]
  exact (fitsCW_iff _).1 (List.all_eq_true.1 hall _ (List.getElem_mem hk))

/-- An error of the command in flight, as a whole state (R203). -/
theorem fail_of_pending {s : State} {w : Word} (e : ErrCode) (hp : s.pending = .cmd w) :
    fail e s = next { s with err := true, errcode := codeOf e, errinfo := w, pending := .none } := by
  simp [fail, raiseError, State.commandWord, hp]

/-! ### The claims -/

/-- Settles O17: CONV writes back the double sum. -/
theorem convComputesTheRingProduct : Obligations.ConvComputesTheRingProduct :=
  fun _ _ _ _ => exec_conv_wroteBack

/-- Settles O18: the sums pass CheckFit and are written back. -/
theorem addComputesThePointwiseSum : Obligations.AddComputesThePointwiseSum := by
  intro s vd va vb hN hfit
  have hlen : (List.zipWith (· + ·) (src s s.degree va) (src s s.degree vb)).length = s.degree := by simp
  have hres (k : Nat) (hk : k < s.degree) := getD_add_src s va vb hk
  obtain ⟨v, hcommit, hv⟩ := commit_wroteBack s vd hlen hres hfit
  exact ⟨v, (exec_add hN vd va vb).trans ((commitChecked_of_fits s vd hlen hres hfit).trans hcommit), hv⟩

/-- Settles O19: the unfit coefficient fails CheckFit. -/
theorem unfitResultRaisesOverflow : Obligations.UnfitResultRaisesOverflow := by
  intro s w vd va vb hN hp
  refine ⟨fun ⟨k, hk, hunfit⟩ => ?_, fun ⟨k, hk, hunfit⟩ => ?_⟩
  · rw [← getD_conv_src s va vb hk] at hunfit
    exact (exec_conv hN vd va vb).trans
      ((commitChecked_of_not_fits s vd (by simpa using hk) hunfit).trans (fail_of_pending .overflow hp))
  · rw [← getD_add_src s va vb hk] at hunfit
    exact (exec_add hN vd va vb).trans
      ((commitChecked_of_not_fits s vd (by simpa using hk) hunfit).trans (fail_of_pending .overflow hp))

/-- Settles O20: the result is the balanced residue, which fits since the modulus has 32 bits. -/
theorem bmodBalancesEveryCoefficient : Obligations.BmodBalancesEveryCoefficient := by
  intro s vd va ms hN hm
  have hbal (k : Nat) : Balanced (modSel s ms) (balmod (s.coef va k) (modSel s ms)) :=
    balanced_balmod _ (Nat.one_le_iff_ne_zero.2 hm)
  obtain ⟨v, hcommit, hv⟩ := commit_wroteBack s vd (by simp) (fun _ => getD_bmod_src s va (modSel s ms))
    fun k _ => (hbal k).fits (modSel_lt s ms)
  exact ⟨v, _, (exec_bmod hN vd va ms).trans ((if_neg hm).trans hcommit), hv, fun k _ => ⟨hbal k, balmod_modEq ..⟩⟩

/-- Settles O23: the source's coefficients fit, each being a stored word. -/
theorem movCopiesThePrefix : Obligations.MovCopiesThePrefix := by
  intro s vd va hN
  rw [exec_mov hN]
  exact commit_wroteBack s vd (length_src ..) (fun _ => getD_src_of_lt s va) fun k _ => fits_coef s va k

/-- Settles O24: LDC writes back the constant polynomial. -/
theorem ldcLoadsTheConstant : Obligations.LdcLoadsTheConstant :=
  fun _ _ _ => exec_ldc_wroteBack

end Sys2Proof.Machine
end

section
/-! The modulus checks of the inversions and the iteration cap (R151, R155, R156). -/

namespace Sys2Proof.Machine

open Host.Outcome

/-! ### Primality -/

/-- The search by halving finds a divisor exactly when one lies in its range (R151). -/
theorem hasDivisorIn_iff (m k lo : Nat) :
    hasDivisorIn m k lo = true ↔ ∃ d, lo ≤ d ∧ d < lo + 2 ^ k ∧ 2 ≤ d ∧ d * d ≤ m ∧ d ∣ m := by
  induction k generalizing lo with
  | zero =>
    have hone : ∀ d, lo ≤ d ∧ d < lo + 2 ^ 0 ↔ d = lo := by omega
    simp only [hasDivisorIn, ← and_assoc, hone]
    simp [Nat.dvd_iff_mod_eq_zero, and_comm, and_left_comm]
  | succ k ih =>
    rw [hasDivisorIn]
    by_cases hlo : m < lo * lo
    · have hnone : ¬ ∃ d, lo ≤ d ∧ d < lo + 2 ^ (k + 1) ∧ 2 ≤ d ∧ d * d ≤ m ∧ d ∣ m := by
        rintro ⟨d, hd, -, -, hsq, -⟩
        exact absurd (Nat.mul_le_mul hd hd) (by omega)
      simp [hlo, hnone]
    · rw [if_neg hlo, Bool.or_eq_true, ih, ih, Nat.pow_succ]
      constructor
      · rintro (⟨d, hd, hd', hdiv⟩ | ⟨d, hd, hd', hdiv⟩) <;> exact ⟨d, by omega, by omega, hdiv⟩
      · rintro ⟨d, hd, hd', hdiv⟩
        by_cases hhalf : d < lo + 2 ^ k
        · exact .inl ⟨d, hd, hhalf, hdiv⟩
        · exact .inr ⟨d, by omega, by omega, hdiv⟩

/-- The check is exact on 32-bit numbers: a composite one has a divisor below 2^16 (R151). -/
theorem isPrime_iff {m : Nat} (hm : m < 2 ^ 32) : isPrime m = true ↔ Nat.Prime m := by
  have hsqrt (d : Nat) : 0 ≤ d ∧ d < 0 + 2 ^ 16 ∧ 2 ≤ d ∧ d * d ≤ m ∧ d ∣ m ↔ 2 ≤ d ∧ d ≤ Nat.sqrt m ∧ d ∣ m := by
    rw [Nat.le_sqrt]
    refine ⟨fun ⟨_, _, h⟩ => h, fun h => ⟨Nat.zero_le d, ?_, h⟩⟩
    have := h.2.1
    by_contra hbig
    exact absurd (Nat.mul_le_mul (by omega : 2 ^ 16 ≤ d) (by omega : 2 ^ 16 ≤ d)) (by omega)
  have hsearch : hasDivisorIn m 16 0 = false ↔ ∀ d, 2 ≤ d → d ≤ Nat.sqrt m → ¬ d ∣ m := by
    rw [← Bool.not_eq_true, hasDivisorIn_iff]
    simp only [hsqrt, not_exists, not_and]
  rw [Nat.prime_def_le_sqrt, isPrime, Bool.and_eq_true, Bool.not_eq_true', decide_eq_true_iff, hsearch]

theorem isPrime_eq_false_iff {m : Nat} (hm : m < 2 ^ 32) : isPrime m = false ↔ ¬ Nat.Prime m := by
  rw [← isPrime_iff hm, Bool.not_eq_true]

/-- Past the prime check INVP succeeds or ends in NOT_INVERTIBLE (R154). -/
theorem exec_invp_cases {s : State} {ms : Ms} (hN : s.legalN) (hp : isPrime (modSel s ms) = true) (vd va : VReg) :
    exec (.invp vd va ms) s = fail .notInvertible s ∨ ∃ h, exec (.invp vd va ms) s = commit vd h s := by
  cases hi : invModPrime s.cfgN.toNat (modSel s ms) (src s s.cfgN.toNat va) with
  | none => exact .inl (exec_invp_none hN hp hi)
  | some h => exact .inr ⟨h, exec_invp_some hN hp hi⟩

/-- Past the check of its modulus INV2K succeeds or ends in NOT_INVERTIBLE or ITER_CAP (R158). -/
theorem exec_inv2k_cases {s : State} {ms : Ms} {k : Nat} (hN : s.legalN) (hk : pow2Exponent (modSel s ms) = some k)
    (vd va : VReg) : ∃ n, exec (.inv2k vd va ms) s = fail .notInvertible (setIters n s) ∨
      exec (.inv2k vd va ms) s = fail .iterCap (setIters n s) ∨
      ∃ h, exec (.inv2k vd va ms) s = commit vd h (setIters n s) := by
  cases hi : invModPrime s.cfgN.toNat 2 (src s s.cfgN.toNat va) with
  | none => exact ⟨0, .inl (exec_inv2k_none hN hk hi)⟩
  | some h =>
    cases hl : newtonLoop s.cfgN.toNat (modSel s ms) (src s s.cfgN.toNat va) (iterationCap k) 0 h with
    | converged g it => exact ⟨it, .inr (.inr ⟨g, exec_inv2k_converged hN hk hi hl⟩)⟩
    | capped it => exact ⟨it, .inr (.inl (exec_inv2k_capped hN hk hi hl))⟩

/-- The answer r is an error completion that reports BAD_MODULUS (R204). -/
def ReportsBadModulus (r : Result) : Prop := ∃ t, r = next t ∧ t.errcode = 3#4 ∧ t.err = true

theorem reportsBadModulus_fail {e : ErrCode} {s : State} : ReportsBadModulus (fail e s) ↔ e = .badModulus := by
  refine ⟨?_, fun h => h ▸ ⟨_, rfl, rfl, rfl⟩⟩
  rintro ⟨t, ht, hcode, -⟩
  cases ht
  rw [raiseError_errcode] at hcode
  revert hcode
  cases e <;> decide

theorem not_reportsBadModulus_commit {vd : VReg} {res : List Int} {s : State} (h : s.err = false) :
    ¬ ReportsBadModulus (commit vd res s) := by
  rintro ⟨t, ht, -, herr⟩
  cases ht
  simp [h] at herr

/-- INVP reports BAD_MODULUS exactly where its modulus is not prime (R151). -/
theorem reportsBadModulus_invp {s : State} (hN : s.legalN) (he : s.err = false) (vd va : VReg) (ms : Ms) :
    ReportsBadModulus (exec (.invp vd va ms) s) ↔ isPrime (modSel s ms) = false := by
  cases hp : isPrime (modSel s ms) with
  | false => simp [exec_invp_badModulus hN hp, reportsBadModulus_fail]
  | true =>
    obtain hx | ⟨h, hx⟩ := exec_invp_cases hN hp vd va
    · simp [hx, reportsBadModulus_fail]
    · simp [hx, not_reportsBadModulus_commit he]

/-- INV2K reports BAD_MODULUS exactly where its modulus fails the check of R155. -/
theorem reportsBadModulus_inv2k {s : State} (hN : s.legalN) (he : s.err = false) (vd va : VReg) (ms : Ms) :
    ReportsBadModulus (exec (.inv2k vd va ms) s) ↔ pow2Exponent (modSel s ms) = none := by
  cases hk : pow2Exponent (modSel s ms) with
  | none => simp [exec_inv2k_badModulus hN hk, reportsBadModulus_fail]
  | some k =>
    obtain ⟨n, hx | hx | ⟨h, hx⟩⟩ := exec_inv2k_cases hN hk vd va
    · simp [hx, reportsBadModulus_fail]
    · simp [hx, reportsBadModulus_fail]
    · simp [hx, not_reportsBadModulus_commit (s := setIters n s) he]

/-- Settles O28: the check is Mathlib's primality, and past it INVP reports another error or none. -/
theorem primalityCheckIsExact : Obligations.PrimalityCheckIsExact := by
  have hmersenne : Nat.Prime (2 ^ 31 - 1) := lucas_lehmer_sufficiency 31 (by norm_num) (by norm_num)
  refine ⟨fun m hm => (isPrime_iff hm).trans Nat.prime_def_lt', fun s w vd va ms hN _ he =>
      reportsBadModulus_invp hN he vd va ms, by decide, by decide, by decide, by decide,
    (isPrime_eq_false_iff (by norm_num)).2 (by norm_num), (isPrime_eq_false_iff (by norm_num)).2 (by norm_num),
    by decide, by decide, by decide, (isPrime_iff (by norm_num)).2 hmersenne⟩

/-! ### Powers of two -/

/-- The check finds the exponent: powers of two are distinct (R155). -/
theorem pow2Exponent_eq_some {m k : Nat} : pow2Exponent m = some k ↔ m = 2 ^ k ∧ 1 ≤ k ∧ k ≤ 31 := by
  have hmem : k ∈ List.range' 1 31 ↔ 1 ≤ k ∧ k ≤ 31 := by simp; omega
  constructor
  · intro h
    exact ⟨by simpa using List.find?_some h, hmem.1 (List.mem_of_find?_eq_some h)⟩
  · rintro ⟨rfl, hk⟩
    cases h : pow2Exponent (2 ^ k) with
    | none => simpa using List.find?_eq_none.1 h k (hmem.2 hk)
    | some j =>
      have hj : 2 ^ k = 2 ^ j := by simpa using List.find?_some h
      rw [Nat.pow_right_injective le_rfl hj]

theorem pow2Exponent_eq_none {m : Nat} : pow2Exponent m = none ↔ ¬ ∃ k, 1 ≤ k ∧ k ≤ 31 ∧ m = 2 ^ k := by
  rw [Option.eq_none_iff_forall_ne_some]
  simp only [ne_eq, pow2Exponent_eq_some]
  exact ⟨fun h ⟨k, h1, h31, hm⟩ => h k ⟨hm, h1, h31⟩, fun h k ⟨hm, h1, h31⟩ => h ⟨k, h1, h31, hm⟩⟩

/-- Settles O33, from what the search over the exponents finds. -/
theorem powerOfTwoCheckIsExact : Obligations.PowerOfTwoCheckIsExact :=
  ⟨fun _ _ => pow2Exponent_eq_some, fun _ _ vd va ms hN _ he =>
    (reportsBadModulus_inv2k hN he vd va ms).trans pow2Exponent_eq_none, by decide, by decide, by decide⟩

/-! ### The iteration cap -/

/-- The exponent that `ceilLog2` answers is the least that reaches k (R156). -/
theorem ceilLog2_spec {k : Nat} (hk : k ≤ 32) : k ≤ 2 ^ ceilLog2 k ∧ ∀ d < ceilLog2 k, 2 ^ d < k := by
  cases h : (List.range 6).find? (fun j => decide (k ≤ 2 ^ j)) with
  | none => exact absurd hk (by simpa using List.find?_eq_none.1 h 5 (by decide))
  | some c =>
    rw [ceilLog2, h, Option.getD_some]
    obtain ⟨hc, -, hleast⟩ := List.find?_range_eq_some.1 h
    exact ⟨of_decide_eq_true hc, fun d hd => by simpa using hleast d hd⟩

theorem ceilLog2_le {k c : Nat} (hk : k ≤ 32) (hc : k ≤ 2 ^ c) : ceilLog2 k ≤ c := by
  by_contra hlt
  exact absurd ((ceilLog2_spec hk).2 c (by omega)) (by omega)

/-- A row of R156's table: the cap of the exponents above 2^c and up to 2^(c+1). -/
theorem iterationCap_of_range {k c : Nat} (hlo : 2 ^ c < k) (hhi : k ≤ 2 ^ (c + 1)) (hk : k ≤ 32) :
    iterationCap k = 2 * (c + 1) + 4 := by
  have hle : ceilLog2 k ≤ c + 1 := ceilLog2_le hk hhi
  have hge : ¬ ceilLog2 k ≤ c := fun h =>
    absurd ((ceilLog2_spec hk).1.trans (Nat.pow_le_pow_right two_pos h)) (by omega)
  rw [iterationCap, show ceilLog2 k = c + 1 by omega]

/-- Settles O34, from the least-exponent property of `ceilLog2`. -/
theorem iterationCapFormula : Obligations.IterationCapFormula :=
  ⟨fun k _ hk => ⟨ceilLog2 k, rfl, ceilLog2_spec (by omega)⟩, rfl, rfl,
    fun _ hlo hhi => iterationCap_of_range (c := 1) (by omega) (by omega) (by omega),
    fun _ hlo hhi => iterationCap_of_range (c := 2) (by omega) (by omega) (by omega),
    fun _ hlo hhi => iterationCap_of_range (c := 3) (by omega) (by omega) (by omega),
    fun _ hlo hhi => iterationCap_of_range (c := 4) (by omega) (by omega) (by omega)⟩

end Sys2Proof.Machine
end

section
/-! The spec's cyclic product (R125) modulo m, in the ring R_m = (Z/m)[x]/(x^n - 1) of R150 and R152. -/

namespace Sys2Proof.Machine

open Finset Polynomial

/-- `x^n - 1` over Z/m (R152). -/
noncomputable def cyclicPoly (m n : Nat) : (ZMod m)[X] := X ^ n - 1

/-- The ring (Z/m)[x]/(x^n - 1) (R150). -/
abbrev CyclicRing (m n : Nat) : Type := AdjoinRoot (cyclicPoly m n)

/-- The polynomial over Z/m whose first n coefficients are those of f. -/
noncomputable def coefPoly (m n : Nat) (f : Nat → Int) : (ZMod m)[X] := ∑ i ∈ range n, C (f i : ZMod m) * X ^ i

/-- An integer polynomial of length n as an element of the ring (R150). -/
noncomputable def ringElem (m n : Nat) (f : Nat → Int) : CyclicRing m n := AdjoinRoot.mk _ (coefPoly m n f)

theorem monic_cyclicPoly (m : Nat) {n : Nat} (hn : n ≠ 0) : (cyclicPoly m n).Monic := by
  simpa [cyclicPoly] using monic_X_pow_sub_C (1 : ZMod m) hn

theorem degree_cyclicPoly {m n : Nat} (hm : m ≠ 1) (hn : n ≠ 0) : (cyclicPoly m n).degree = n := by
  have : Nontrivial (ZMod m) := ZMod.nontrivial_iff.2 hm
  simpa [cyclicPoly] using degree_X_pow_sub_C (Nat.pos_of_ne_zero hn) (1 : ZMod m)

theorem coeff_coefPoly {m n k : Nat} (f : Nat → Int) (hk : k < n) : (coefPoly m n f).coeff k = f k := by
  simp [coefPoly, coeff_X_pow, hk]

theorem degree_coefPoly_lt (m n : Nat) (f : Nat → Int) : (coefPoly m n f).degree < n :=
  (degree_lt_iff_coeff_zero _ n).2 fun k hk => by
    simp [coefPoly, coeff_X_pow, hk]

theorem root_pow (m n : Nat) : AdjoinRoot.root (cyclicPoly m n) ^ n = 1 := by
  have h := AdjoinRoot.mk_self (f := cyclicPoly m n)
  rwa [cyclicPoly, map_sub, map_pow, map_one, AdjoinRoot.mk_X, sub_eq_zero] at h

/-- `x^e` folds onto `x^(e mod n)` (R153). -/
theorem root_pow_mod (m n e : Nat) :
    AdjoinRoot.root (cyclicPoly m n) ^ (e % n) = AdjoinRoot.root (cyclicPoly m n) ^ e :=
  (pow_eq_pow_mod e (root_pow m n)).symm

theorem ringElem_eq_sum (m n : Nat) (f : Nat → Int) :
    ringElem m n f = ∑ i ∈ range n, (f i : CyclicRing m n) * AdjoinRoot.root (cyclicPoly m n) ^ i := by
  simp [ringElem, coefPoly]

/-- Two polynomials of length n are equal in the ring exactly when they agree modulo m. -/
theorem ringElem_eq_iff (m n : Nat) (f g : Nat → Int) :
    ringElem m n f = ringElem m n g ↔ ∀ k < n, f k ≡ g k [ZMOD m] := by
  refine ⟨fun h k hk => ?_, fun h => ?_⟩
  · by_cases hm : m = 1
    · simp [hm, Int.modEq_one]
    have : Nontrivial (ZMod m) := ZMod.nontrivial_iff.2 hm
    have hdvd : cyclicPoly m n ∣ coefPoly m n f - coefPoly m n g := AdjoinRoot.mk_eq_mk.1 h
    have hdeg : (coefPoly m n f - coefPoly m n g).degree < (cyclicPoly m n).degree := by
      rw [degree_cyclicPoly hm (by omega)]
      exact (degree_sub_le _ _).trans_lt (max_lt (degree_coefPoly_lt m n f) (degree_coefPoly_lt m n g))
    have hzero : coefPoly m n f - coefPoly m n g = 0 := by
      by_contra hne
      exact (monic_cyclicPoly m (by omega)).not_dvd_of_degree_lt hne hdeg hdvd
    rw [← ZMod.intCast_eq_intCast_iff, ← coeff_coefPoly f hk, ← coeff_coefPoly g hk, sub_eq_zero.1 hzero]
  · rw [ringElem, ringElem, coefPoly, coefPoly]
    congr 1
    exact sum_congr rfl fun k hk => by rw [(ZMod.intCast_eq_intCast_iff _ _ _).2 (h k (mem_range.1 hk))]

theorem ringElem_ringProduct (m n : Nat) (a b : Nat → Int) :
    ringElem m n (ringProduct n a b) = ringElem m n a * ringElem m n b := by
  let x := AdjoinRoot.root (cyclicPoly m n)
  have hplace (i j : Nat) (hi : i ∈ range n) :
      (∑ k ∈ range n, if (i + j) % n = k then (a i : CyclicRing m n) * b j * x ^ k else 0) =
        a i * x ^ i * (b j * x ^ j) := by
    have hn : 0 < n := by have := mem_range.1 hi; omega
    rw [sum_ite_eq, if_pos (mem_range.2 (Nat.mod_lt _ hn)), root_pow_mod, pow_add]
    ring
  calc ringElem m n (ringProduct n a b)
      = ∑ k ∈ range n, ∑ i ∈ range n, ∑ j ∈ range n,
          if (i + j) % n = k then (a i : CyclicRing m n) * b j * x ^ k else 0 := by
        simp only [ringElem_eq_sum, ringProduct, Int.cast_sum, sum_mul, Int.cast_ite, Int.cast_mul, Int.cast_zero,
          ite_mul, zero_mul, x]
    _ = ∑ i ∈ range n, ∑ j ∈ range n, ∑ k ∈ range n,
          if (i + j) % n = k then (a i : CyclicRing m n) * b j * x ^ k else 0 := by
        rw [sum_comm]
        exact sum_congr rfl fun i _ => sum_comm
    _ = ringElem m n a * ringElem m n b := by
        rw [ringElem_eq_sum, ringElem_eq_sum, sum_mul_sum]
        exact sum_congr rfl fun i hi => sum_congr rfl fun j _ => hplace i j hi

theorem ringElem_sub (m n : Nat) (a b : Nat → Int) :
    ringElem m n (fun k => a k - b k) = ringElem m n a - ringElem m n b := by
  simp only [ringElem_eq_sum, Int.cast_sub, sub_mul, sum_sub_distrib]

/-- A constant polynomial (R12). -/
theorem ringElem_const (m : Nat) {n : Nat} (hn : 1 ≤ n) (c : Int) :
    ringElem m n (fun k => if k = 0 then c else 0) = c := by
  rw [ringElem_eq_sum, sum_eq_single_of_mem 0 (mem_range.2 hn) fun i _ hi => by simp [hi]]
  simp

theorem ringElem_oneCoef (m : Nat) {n : Nat} (hn : 1 ≤ n) : ringElem m n oneCoef = 1 :=
  (ringElem_const m hn 1).trans Int.cast_one

theorem natCast_eq_zero_of_dvd {m c : Nat} (n : Nat) (h : m ∣ c) : (c : CyclicRing m n) = 0 := by
  rw [← map_natCast (AdjoinRoot.of _), (ZMod.natCast_eq_zero_iff c m).2 h, map_zero]

/-- Polynomials that agree modulo d differ by a multiple of d, whatever the ring's modulus. -/
theorem dvd_ringElem_sub {d n : Nat} (m : Nat) {f g : Nat → Int} (h : ∀ k < n, f k ≡ g k [ZMOD d]) :
    (d : CyclicRing m n) ∣ ringElem m n f - ringElem m n g := by
  rw [← ringElem_sub, ringElem_eq_sum]
  refine dvd_sum fun k hk => Dvd.dvd.mul_right ?_ _
  obtain ⟨c, hc⟩ := (h k (mem_range.1 hk)).symm.dvd
  exact ⟨c, by rw [hc]; push_cast; rfl⟩

/-- R152's inverse is an inverse in the ring. -/
theorem inverseMod_iff {m n : Nat} (hn : 1 ≤ n) (a h : Nat → Int) :
    InverseMod n m a h ↔ ringElem m n a * ringElem m n h = 1 := by
  rw [← ringElem_oneCoef m hn, ← ringElem_ringProduct, ringElem_eq_iff]
  rfl
end Sys2Proof.Machine
end

section
/-! The model's coefficient lists over GF(p) as Mathlib polynomials, and what the list arithmetic of R150
computes in those terms. -/

namespace Sys2Proof.Machine

open Polynomial

/-- The polynomial a list of coefficients stands for, low degree first (R150). -/
noncomputable def listPoly (p : Nat) : List Nat → (ZMod p)[X]
  | [] => 0
  | a :: as => C (a : ZMod p) + X * listPoly p as

@[simp] theorem listPoly_nil (p : Nat) : listPoly p [] = 0 := rfl

@[simp] theorem listPoly_cons (p a : Nat) (as : List Nat) :
    listPoly p (a :: as) = C (a : ZMod p) + X * listPoly p as := rfl

theorem listPoly_append (p : Nat) (as bs : List Nat) :
    listPoly p (as ++ bs) = listPoly p as + X ^ as.length * listPoly p bs := by
  induction as with
  | nil => simp
  | cons a as ih =>
    rw [List.cons_append, listPoly_cons, listPoly_cons, ih, List.length_cons]
    ring

/-- A list that stands high degree first, as the long division reads it. -/
theorem listPoly_reverse_cons (p r : Nat) (rs : List Nat) :
    listPoly p (r :: rs).reverse = listPoly p rs.reverse + C (r : ZMod p) * X ^ rs.length := by
  rw [List.reverse_cons, listPoly_append, listPoly_cons, listPoly_nil, List.length_reverse]
  ring

theorem coeff_listPoly (p : Nat) (l : List Nat) (i : Nat) : (listPoly p l).coeff i = ((l.getD i 0 : Nat) : ZMod p) := by
  induction l generalizing i with
  | nil => simp
  | cons a as ih =>
    cases i with
    | zero => simp
    | succ i => simp [ih]

/-! ### Canonical lists -/

/-- The model's form of a polynomial over GF(p): coefficients below p, no trailing zero. -/
def Canonical (p : Nat) (l : List Nat) : Prop := (∀ c ∈ l, c < p) ∧ l.getLast? ≠ some 0

/-- The leading coefficient of a canonical list is not 0 in GF(p). -/
theorem Canonical.leading_ne_zero {p c : Nat} {l : List Nat} (h : Canonical p (l ++ [c])) : (c : ZMod p) ≠ 0 := by
  obtain ⟨hlt, hlast⟩ := h
  have hc : c ≠ 0 := by simpa using hlast
  rw [Ne, ZMod.natCast_eq_zero_iff]
  exact Nat.not_dvd_of_pos_of_lt (Nat.pos_of_ne_zero hc) (hlt c (by simp))

/-- A canonical list that stands for a unit is a constant. -/
theorem Canonical.eq_singleton_of_isUnit {p : Nat} [Fact p.Prime] {l : List Nat} (h : Canonical p l)
    (hu : IsUnit (listPoly p l)) : ∃ r, l = [r] := by
  obtain rfl | ⟨l, c, rfl⟩ := l.eq_nil_or_concat'
  · simp at hu
  · have hlead : (listPoly p (l ++ [c])).coeff l.length ≠ 0 := by
      rw [coeff_listPoly]
      simpa using h.leading_ne_zero
    have hlen : l.length ≤ 0 := natDegree_eq_zero_of_isUnit hu ▸ le_natDegree_of_ne_zero hlead
    exact ⟨c, by rw [List.eq_nil_of_length_eq_zero (Nat.le_zero.1 hlen), List.nil_append]⟩

theorem trim_cons (a : Nat) (as : List Nat) :
    trim (a :: as) = if trim as = [] then (if a = 0 then [] else [a]) else a :: trim as := by
  rw [trim]
  cases trim as <;> simp

@[simp] theorem listPoly_trim (p : Nat) (l : List Nat) : listPoly p (trim l) = listPoly p l := by
  induction l with
  | nil => rfl
  | cons a as ih =>
    rw [trim_cons]
    split
    next hnil =>
      have hzero : listPoly p as = 0 := by rw [← ih, hnil, listPoly_nil]
      split <;> simp_all
    next => simp [ih]

theorem trim_sublist (l : List Nat) : (trim l).Sublist l := by
  induction l with
  | nil => exact .slnil
  | cons a as ih =>
    rw [trim_cons]
    split
    next =>
      split
      · simp
      · simp
    next => exact ih.cons_cons a

theorem getLast?_trim (l : List Nat) : (trim l).getLast? ≠ some 0 := by
  induction l with
  | nil => simp [trim]
  | cons a as ih =>
    rw [trim_cons]
    split
    next => split <;> simp_all
    next hne => rwa [List.getLast?_cons_of_ne_nil hne]

theorem canonical_trim {p : Nat} {l : List Nat} (h : ∀ c ∈ l, c < p) : Canonical p (trim l) :=
  ⟨fun c hc => h c ((trim_sublist l).subset hc), getLast?_trim l⟩

theorem length_trim_le (l : List Nat) : (trim l).length ≤ l.length := (trim_sublist l).length_le

/-! ### Sums and products -/

theorem cast_sub_mod {p : Nat} (hp : 0 < p) (a b : Nat) : (((a + (p - b % p)) % p : Nat) : ZMod p) = a - b := by
  rw [ZMod.natCast_mod, Nat.cast_add, Nat.cast_sub (Nat.mod_lt b hp).le, ZMod.natCast_self, ZMod.natCast_mod]
  ring

theorem listPoly_scale (p a : Nat) (l : List Nat) :
    listPoly p (l.map fun b => a * b % p) = C (a : ZMod p) * listPoly p l := by
  induction l with
  | nil => simp
  | cons b bs ih =>
    rw [List.map_cons, listPoly_cons, listPoly_cons, ih, ZMod.natCast_mod, Nat.cast_mul, C_mul]
    ring

/-- The difference from the zero polynomial. -/
theorem listPoly_neg {p : Nat} (hp : 0 < p) (bs : List Nat) :
    listPoly p (bs.map fun b => (p - b % p) % p) = -listPoly p bs := by
  induction bs with
  | nil => simp
  | cons b bs ih =>
    have hb : (((p - b % p) % p : Nat) : ZMod p) = -b := by simpa using cast_sub_mod hp 0 b
    rw [List.map_cons, listPoly_cons, listPoly_cons, ih, hb, C_neg]
    ring

theorem listPoly_polySub {p : Nat} (hp : 0 < p) (as bs : List Nat) :
    listPoly p (polySub p as bs) = listPoly p as - listPoly p bs := by
  fun_induction polySub with
  | case1 bs => rw [listPoly_neg hp, listPoly_nil, zero_sub]
  | case2 => rw [listPoly_nil, sub_zero]
  | case3 a as b bs ih =>
    simp only [listPoly_cons, ih, cast_sub_mod hp, C_sub]
    ring

theorem listPoly_polyAdd (p : Nat) (as bs : List Nat) :
    listPoly p (polyAdd p as bs) = listPoly p as + listPoly p bs := by
  fun_induction polyAdd with
  | case1 bs => rw [listPoly_nil, zero_add]
  | case2 => rw [listPoly_nil, add_zero]
  | case3 a as b bs ih =>
    simp only [listPoly_cons, ih, ZMod.natCast_mod, Nat.cast_add, C_add]
    ring

theorem listPoly_polyMul (p : Nat) (as bs : List Nat) :
    listPoly p (polyMul p as bs) = listPoly p as * listPoly p bs := by
  induction as with
  | nil => simp [polyMul]
  | cons a as ih =>
    rw [polyMul, listPoly_polyAdd, listPoly_scale, listPoly_cons, listPoly_cons, ih, Nat.cast_zero, C_0]
    ring

/-! ### Inverses in GF(p) -/

/-- Square and multiply (R150): the fuel bounds the bits of the exponent. -/
theorem cast_powMod {p fuel b e : Nat} (he : e < 2 ^ fuel) :
    ((powMod p fuel b e : Nat) : ZMod p) = (b : ZMod p) ^ e := by
  induction fuel generalizing b e with
  | zero => simp [powMod, show e = 0 by omega]
  | succ fuel ih =>
    have hhalf : ((powMod p fuel (b * b % p) (e / 2) : Nat) : ZMod p) = (b : ZMod p) ^ (2 * (e / 2)) := by
      rw [ih (by omega), ZMod.natCast_mod, Nat.cast_mul, pow_mul, sq]
    rw [powMod]
    split
    next hodd => rw [ZMod.natCast_mod, Nat.cast_mul, hhalf, ← pow_succ', show 2 * (e / 2) + 1 = e by omega]
    next heven => rw [hhalf, show 2 * (e / 2) = e by omega]

/-- The power p - 2 of a nonzero element is its inverse, by Fermat (R150). -/
theorem fieldInv_mul {p c : Nat} (hp : p.Prime) (hlt : p < 2 ^ 32) (hc : (c : ZMod p) ≠ 0) :
    ((fieldInv p c : Nat) : ZMod p) * c = 1 := by
  have : Fact p.Prime := ⟨hp⟩
  have htwo := hp.two_le
  rw [fieldInv, cast_powMod (by omega), ← pow_succ, show p - 2 + 1 = p - 1 by omega, ZMod.pow_card_sub_one_eq_one hc]

/-! ### Long division -/

@[simp] theorem length_subScaled (p c : Nat) (bs rs : List Nat) : (subScaled p c bs rs).length = rs.length := by
  fun_induction subScaled with
  | case1 b bs r rs ih => simp [ih]
  | case2 => rfl

theorem subScaled_lt {p c : Nat} {bs rs : List Nat} (hp : 0 < p) (h : ∀ x ∈ rs, x < p) :
    ∀ x ∈ subScaled p c bs rs, x < p := by
  fun_induction subScaled with
  | case1 b bs r rs ih =>
    simp only [List.forall_mem_cons] at h ⊢
    exact ⟨Nat.mod_lt _ hp, ih h.2⟩
  | case2 => exact h

/-- The subtraction of one turn: c times the divisor's tail from the places below the leading one. -/
theorem listPoly_subScaled {p c k : Nat} {bs rs : List Nat} (hp : 0 < p) (hlen : rs.length = k + bs.length) :
    listPoly p (subScaled p c bs rs).reverse =
      listPoly p rs.reverse - C (c : ZMod p) * X ^ k * listPoly p bs.reverse := by
  fun_induction subScaled with
  | case1 b bs r rs ih =>
    have hlen : rs.length = k + bs.length := by simp at hlen; omega
    rw [listPoly_reverse_cons, listPoly_reverse_cons, listPoly_reverse_cons, length_subScaled, ih hlen, cast_sub_mod hp,
      hlen, Nat.cast_mul, C_sub, C_mul]
    ring
  | case2 bs rs hnil =>
    cases bs with
    | nil => simp
    | cons b bs =>
      cases rs with
      | nil => simp at hlen
      | cons r rs => exact (hnil b bs r rs rfl rfl).elim

/-- Long division by the divisor with leading coefficient lead and the other coefficients bs. -/
theorem longDiv_spec {p inv lead steps : Nat} {bs rs : List Nat} (hp : 0 < p) (hinv : (inv : ZMod p) * lead = 1)
    (hlen : rs.length = steps + bs.length) (hlt : ∀ x ∈ rs, x < p) :
    listPoly p rs.reverse = listPoly p (longDiv p inv bs steps rs).1.reverse * listPoly p (lead :: bs).reverse +
        listPoly p (longDiv p inv bs steps rs).2.reverse ∧
      (longDiv p inv bs steps rs).1.length = steps ∧ (longDiv p inv bs steps rs).2.length = bs.length ∧
      ∀ x ∈ (longDiv p inv bs steps rs).2, x < p := by
  induction steps generalizing rs with
  | zero => simpa [longDiv] using ⟨hlen.trans (Nat.zero_add _), hlt⟩
  | succ steps ih =>
    cases rs with
    | nil => simp at hlen; omega
    | cons r rs =>
      have hlen : rs.length = steps + bs.length := by simp at hlen; omega
      have hlead : C ((r * inv % p : Nat) : ZMod p) * C (lead : ZMod p) = C (r : ZMod p) := by
        rw [← C_mul, ZMod.natCast_mod, Nat.cast_mul, mul_assoc, hinv, mul_one]
      obtain ⟨heq, hq, hr, hrlt⟩ := ih (rs := subScaled p (r * inv % p) bs rs) (by simpa using hlen)
        (subScaled_lt hp fun x hx => hlt x (List.mem_cons_of_mem r hx))
      refine ⟨?_, by simp [longDiv, hq], hr, hrlt⟩
      rw [listPoly_subScaled hp hlen, listPoly_reverse_cons, sub_eq_iff_eq_add] at heq
      simp only [longDiv, listPoly_reverse_cons, hq]
      rw [heq, hlen, ← hlead]
      ring

/-- `PolyDivMod_p` divides with a remainder shorter than the divisor (R150). -/
theorem polyDivMod_spec {p : Nat} {a b : List Nat} (hp : p.Prime) (hlt : p < 2 ^ 32) (ha : ∀ c ∈ a, c < p)
    (hb : Canonical p b) (hne : b ≠ []) :
    listPoly p a = listPoly p (polyDivMod p a b).1 * listPoly p b + listPoly p (polyDivMod p a b).2 ∧
      Canonical p (polyDivMod p a b).2 ∧ (polyDivMod p a b).2.length < b.length := by
  obtain ⟨lead, bs, hrev⟩ := List.exists_cons_of_ne_nil (List.reverse_ne_nil_iff.2 hne)
  have hb' : b = (lead :: bs).reverse := by rw [← hrev, List.reverse_reverse]
  have hlen : b.length = bs.length + 1 := by simp [hb']
  simp only [polyDivMod, hrev, listPoly_trim]
  by_cases hshort : a.length < b.length
  · rw [show a.length + 1 - b.length = 0 by omega]
    simp only [longDiv, List.reverse_nil, listPoly_nil, zero_mul, zero_add, List.reverse_reverse, true_and]
    exact ⟨canonical_trim ha, (length_trim_le a).trans_lt hshort⟩
  · have hlead : (lead : ZMod p) ≠ 0 := Canonical.leading_ne_zero (l := bs.reverse) (by simpa [hb'] using hb)
    obtain ⟨heq, -, hr, hrlt⟩ := longDiv_spec (rs := a.reverse) (bs := bs) (steps := a.length + 1 - b.length) hp.pos
      (fieldInv_mul hp hlt hlead) (by simp; omega) (by simpa using ha)
    rw [List.reverse_reverse, ← hb'] at heq
    refine ⟨heq, canonical_trim (by simpa using hrlt), (length_trim_le _).trans_lt ?_⟩
    rw [List.length_reverse, hr]
    omega

end Sys2Proof.Machine
end

section
/-! The reference algorithm (R153): what the Euclidean loop keeps, and why its answer is the inverse of R152
exactly where there is one. -/

namespace Sys2Proof.Machine

open Finset Polynomial

/-! ### The Euclidean loop -/

/-- The loop's answer `(r, t)`: t carries f onto r wherever the initial pairs do, and r is a unit
where the initial remainders are coprime. -/
theorem euclidLoop_spec {p : Nat} (hp : p.Prime) (hlt : p < 2 ^ 32) {R : Type} [CommRing R] (φ : (ZMod p)[X] →+* R)
    (f : R) {fuel : Nat} {r0 r1 t0 t1 : List Nat} (h0 : Canonical p r0) (h1 : Canonical p r1)
    (hfuel : r1.length ≤ fuel) (ht0 : φ (listPoly p t0) * f = φ (listPoly p r0))
    (ht1 : φ (listPoly p t1) * f = φ (listPoly p r1)) :
    Canonical p (euclidLoop p fuel r0 r1 t0 t1).1 ∧
      φ (listPoly p (euclidLoop p fuel r0 r1 t0 t1).2) * f = φ (listPoly p (euclidLoop p fuel r0 r1 t0 t1).1) ∧
      (IsCoprime (listPoly p r0) (listPoly p r1) → IsUnit (listPoly p (euclidLoop p fuel r0 r1 t0 t1).1)) := by
  induction fuel generalizing r0 r1 t0 t1 with
  | zero =>
    obtain rfl := List.eq_nil_of_length_eq_zero (Nat.le_zero.1 hfuel)
    exact ⟨h0, ht0, isCoprime_zero_right.1⟩
  | succ fuel ih =>
    rw [euclidLoop]
    split
    next hnil =>
      subst hnil
      exact ⟨h0, ht0, isCoprime_zero_right.1⟩
    next hne =>
      obtain ⟨hdiv, hcanon, hshort⟩ := polyDivMod_spec hp hlt h0.1 h1 hne
      have hrem : φ (listPoly p (trim (polySub p t0 (polyMul p (polyDivMod p r0 r1).1 t1)))) * f =
          φ (listPoly p (polyDivMod p r0 r1).2) := by
        rw [listPoly_trim, listPoly_polySub hp.pos, listPoly_polyMul, map_sub, map_mul, sub_mul, mul_assoc, ht0, ht1,
          hdiv, map_add, map_mul, add_sub_cancel_left]
      obtain ⟨hcanon', heq, hunit⟩ := ih h1 hcanon (by omega) ht1 hrem
      refine ⟨hcanon', heq, fun hcop => hunit ?_⟩
      rw [hdiv, mul_comm] at hcop
      exact (IsCoprime.mul_add_left_left_iff.1 hcop).symm

/-! ### What the algorithm starts from -/

theorem getD_reduceMod (p : Nat) (a : List Int) (k : Nat) : (reduceMod p a).getD k 0 = (a.getD k 0 % p).toNat := by
  rcases lt_or_ge k a.length with hk | hk <;> simp [reduceMod, List.getD_eq_getElem?_getD, hk]

theorem listPoly_reduceMod {n p : Nat} (hp : 0 < p) {a : List Int} (ha : a.length = n) :
    listPoly p (reduceMod p a) = coefPoly p n (a.getD · 0) := by
  have hcast (c : Int) : (((c % p).toNat : Nat) : ZMod p) = c := by
    rw [← Int.cast_natCast, Int.toNat_of_nonneg (Int.emod_nonneg c (by omega)), ZMod.intCast_mod]
  ext k
  rw [coeff_listPoly, getD_reduceMod, hcast]
  rcases lt_or_ge k n with hk | hk
  · rw [coeff_coefPoly _ hk]
  · rw [List.getD_eq_default _ _ (ha.trans_le hk), coeff_eq_zero_of_degree_lt
      ((degree_coefPoly_lt p n _).trans_le (Nat.cast_le.2 hk)), Int.cast_zero]

theorem canonical_trim_reduceMod {p : Nat} (hp : 0 < p) (a : List Int) : Canonical p (trim (reduceMod p a)) := by
  refine canonical_trim fun c hc => ?_
  obtain ⟨x, -, rfl⟩ := List.mem_map.1 hc
  have hpos : (0 : Int) < p := by omega
  have := Int.emod_lt_of_pos x hpos
  omega

theorem listPoly_replicate_zero (p n : Nat) : listPoly p (List.replicate n 0) = 0 := by
  induction n with
  | zero => rfl
  | succ n ih => simp [List.replicate_succ, ih]

theorem listPoly_xPowNSubOne {n p : Nat} (hn : 1 ≤ n) (hp : 0 < p) : listPoly p (xPowNSubOne p n) = cyclicPoly p n := by
  have hneg : ((p - 1 : Nat) : ZMod p) = -1 := by rw [Nat.cast_sub hp, ZMod.natCast_self, Nat.cast_one, zero_sub]
  rw [xPowNSubOne, listPoly_cons, listPoly_append, listPoly_replicate_zero, hneg, List.length_replicate, cyclicPoly,
    listPoly_cons, listPoly_nil, Nat.cast_one, C_neg, C_1]
  linear_combination (pow_sub_mul_pow X hn : (X : (ZMod p)[X]) ^ (n - 1) * X ^ 1 = X ^ n)

theorem canonical_xPowNSubOne {p : Nat} (n : Nat) (hp : 1 < p) : Canonical p (xPowNSubOne p n) := by
  refine ⟨fun c hc => ?_, by simp [xPowNSubOne, List.getLast?_cons]⟩
  simp only [xPowNSubOne, List.mem_cons, List.mem_append, List.mem_replicate, List.not_mem_nil, or_false] at hc
  omega

/-- The answer of R153's loop on the operand a. -/
def euclidOf (n p : Nat) (a : List Int) : List Nat × List Nat :=
  euclidLoop p (n + 1) (xPowNSubOne p n) (trim (reduceMod p a)) [] [1]

theorem euclidOf_spec {n p : Nat} (hp : p.Prime) (hlt : p < 2 ^ 32) (hn : 1 ≤ n) {a : List Int} (ha : a.length = n) :
    Canonical p (euclidOf n p a).1 ∧
      AdjoinRoot.mk (cyclicPoly p n) (listPoly p (euclidOf n p a).2) * ringElem p n (a.getD · 0) =
        AdjoinRoot.mk (cyclicPoly p n) (listPoly p (euclidOf n p a).1) ∧
      (IsCoprime (cyclicPoly p n) (coefPoly p n (a.getD · 0)) → IsUnit (listPoly p (euclidOf n p a).1)) := by
  have hf : listPoly p (trim (reduceMod p a)) = coefPoly p n (a.getD · 0) := by
    rw [listPoly_trim, listPoly_reduceMod hp.pos ha]
  have hx := listPoly_xPowNSubOne hn hp.pos
  have hlen : (trim (reduceMod p a)).length ≤ n + 1 :=
    (length_trim_le _).trans (by simp [reduceMod, ha])
  have hspec := euclidLoop_spec hp hlt (AdjoinRoot.mk (cyclicPoly p n)) (ringElem p n (a.getD · 0)) (t0 := [])
    (t1 := [1]) (canonical_xPowNSubOne n hp.one_lt) (canonical_trim_reduceMod hp.pos a) hlen (by simp [hx])
    (by simp [hf, ringElem])
  rwa [hx, hf] at hspec

/-! ### The answer -/

/-- The balanced inverse that R153 makes of a gcd r that is a constant and its cofactor t. -/
def inverseOf (n p r : Nat) (t : List Nat) : List Int :=
  (foldCyclic p n (t.map fun c => fieldInv p r * c % p)).map fun (h : Nat) => balmod (h : Int) p

theorem reduced_ne_nil {n p r : Nat} {a : List Int} (h : (euclidOf n p a).1 = [r]) : trim (reduceMod p a) ≠ [] := by
  intro hnil
  simp [euclidOf, hnil, euclidLoop, xPowNSubOne] at h

theorem invModPrime_eq_some {n p r : Nat} {a : List Int} (h : (euclidOf n p a).1 = [r]) :
    invModPrime n p a = some (inverseOf n p r (euclidOf n p a).2) := by
  simp only [invModPrime, if_neg (reduced_ne_nil h)]
  rw [← euclidOf, h]
  rfl

theorem exists_of_invModPrime_eq_some {n p : Nat} {a h : List Int} (hi : invModPrime n p a = some h) :
    ∃ r, (euclidOf n p a).1 = [r] := by
  simp only [invModPrime] at hi
  split at hi
  · cases hi
  · split at hi
    next r hr => exact ⟨r, hr⟩
    next => cases hi

/-- Folding places onto their residues modulo n keeps the sum of the terms, where x^n = 1 (R153). -/
theorem sum_filter_mod {R : Type} [CommRing R] {x : R} {n : Nat} (hn : 0 < n) (hx : x ^ n = 1) (es : List (Nat × Nat)) :
    (∑ k ∈ range n, ((((es.filter fun e => e.2 % n == k).map Prod.fst).sum : Nat) : R) * x ^ k) =
      (es.map fun e => (e.1 : R) * x ^ e.2).sum := by
  induction es with
  | nil => simp
  | cons e es ih =>
    have hplace (k : Nat) : ((((e :: es).filter fun e => e.2 % n == k).map Prod.fst).sum : R) * x ^ k =
        (if e.2 % n = k then (e.1 : R) * x ^ k else 0) +
          ((((es.filter fun e => e.2 % n == k).map Prod.fst).sum : Nat) : R) * x ^ k := by
      by_cases he : e.2 % n = k <;> simp [he, add_mul]
    rw [sum_congr rfl fun k _ => hplace k, sum_add_distrib, ih, sum_ite_eq,
      if_pos (mem_range.2 (Nat.mod_lt _ hn)), ← pow_eq_pow_mod e.2 hx, List.map_cons, List.sum_cons]

/-- A list's value in the ring, place by place from the place s on. -/
theorem sum_zipIdx (p n s : Nat) (l : List Nat) :
    ((l.zipIdx s).map fun e => (e.1 : CyclicRing p n) * AdjoinRoot.root (cyclicPoly p n) ^ e.2).sum =
      AdjoinRoot.root (cyclicPoly p n) ^ s * AdjoinRoot.mk (cyclicPoly p n) (listPoly p l) := by
  induction l generalizing s with
  | nil => simp
  | cons a as ih =>
    rw [List.zipIdx_cons, List.map_cons, List.sum_cons, ih, listPoly_cons, map_add, map_mul, AdjoinRoot.mk_C,
      AdjoinRoot.mk_X, map_natCast]
    ring

/-- The fold does not change a polynomial's value modulo x^n - 1, nor does the balanced reduction (R153). -/
theorem ringElem_balmod_foldCyclic {n p : Nat} (hn : 1 ≤ n) (g : List Nat) :
    ringElem p n (((foldCyclic p n g).map fun (h : Nat) => balmod (h : Int) p).getD · 0) =
      AdjoinRoot.mk (cyclicPoly p n) (listPoly p g) := by
  have hplace (k : Nat) (hk : k < n) : ((foldCyclic p n g).map fun (h : Nat) => balmod (h : Int) p).getD k 0 ≡
      ((((g.zipIdx.filter fun e => e.2 % n == k).map Prod.fst).sum : Nat) : Int) [ZMOD p] := by
    simpa [foldCyclic, hk] using (balmod_modEq _ p).trans (Int.mod_modEq _ _)
  rw [(ringElem_eq_iff ..).2 hplace, ringElem_eq_sum]
  simp only [Int.cast_natCast]
  rw [sum_filter_mod hn (root_pow p n), sum_zipIdx, pow_zero, one_mul]

/-- What R153 makes of a constant gcd is an inverse. -/
theorem inverseOf_spec {n p r : Nat} (hp : p.Prime) (hlt : p < 2 ^ 32) (hn : 1 ≤ n) {a : List Int} (ha : a.length = n)
    (hr : (euclidOf n p a).1 = [r]) :
    InverseMod n p (a.getD · 0) ((inverseOf n p r (euclidOf n p a).2).getD · 0) := by
  obtain ⟨hcanon, heq, -⟩ := euclidOf_spec hp hlt hn ha
  rw [hr] at hcanon heq
  have hone : C ((fieldInv p r : Nat) : ZMod p) * listPoly p [r] = 1 := by
    rw [listPoly_cons, listPoly_nil, mul_zero, add_zero, ← C_mul,
      fieldInv_mul hp hlt (Canonical.leading_ne_zero (l := []) hcanon), C_1]
  rw [inverseMod_iff hn, inverseOf, ringElem_balmod_foldCyclic hn, listPoly_scale, map_mul, mul_left_comm,
    mul_comm (ringElem ..), heq, ← map_mul, hone, map_one]

/-- An operand with an inverse is coprime to x^n - 1 (R152). -/
theorem isCoprime_of_inverseMod {n m : Nat} (hn : 1 ≤ n) {a h : Nat → Int} (hi : InverseMod n m a h) :
    IsCoprime (cyclicPoly m n) (coefPoly m n a) := by
  rw [inverseMod_iff hn, ringElem, ringElem, ← map_mul, ← map_one (AdjoinRoot.mk _), AdjoinRoot.mk_eq_mk] at hi
  obtain ⟨c, hc⟩ := hi
  exact ⟨-c, coefPoly m n h, by linear_combination hc⟩

/-- The algorithm answers the balanced inverse of R152 wherever there is one. -/
theorem exists_invModPrime_of_inverseMod {n p : Nat} (hp : p.Prime) (hlt : p < 2 ^ 32) (hn : 1 ≤ n) {a : List Int}
    (ha : a.length = n) {h : Nat → Int} (hi : InverseMod n p (a.getD · 0) h) : ∃ g, invModPrime n p a = some g := by
  have : Fact p.Prime := ⟨hp⟩
  obtain ⟨hcanon, -, hunit⟩ := euclidOf_spec hp hlt hn ha
  obtain ⟨r, hr⟩ := hcanon.eq_singleton_of_isUnit (hunit (isCoprime_of_inverseMod hn hi))
  exact ⟨_, invModPrime_eq_some hr⟩

theorem inverseMod_of_invModPrime {n p : Nat} (hp : p.Prime) (hlt : p < 2 ^ 32) (hn : 1 ≤ n) {a h : List Int}
    (ha : a.length = n) (hi : invModPrime n p a = some h) : InverseMod n p (a.getD · 0) (h.getD · 0) := by
  obtain ⟨r, hr⟩ := exists_of_invModPrime_eq_some hi
  rw [invModPrime_eq_some hr] at hi
  cases hi
  exact inverseOf_spec hp hlt hn ha hr

theorem balanced_invModPrime {n p : Nat} (hp : 1 ≤ p) {a h : List Int} (hi : invModPrime n p a = some h) {k : Nat}
    (hk : k < n) : Balanced p (h.getD k 0) := by
  obtain ⟨r, hr⟩ := exists_of_invModPrime_eq_some hi
  rw [invModPrime_eq_some hr] at hi
  cases hi
  simpa [inverseOf, hk] using balanced_balmod _ hp

/-- Inverses are unique modulo m, as in every commutative ring (R152). -/
theorem InverseMod.modEq {n m : Nat} (hn : 1 ≤ n) {a g h : Nat → Int} (hg : InverseMod n m a g)
    (hh : InverseMod n m a h) : ∀ k < n, g k ≡ h k [ZMOD m] := by
  rw [inverseMod_iff hn] at hg hh
  rw [← ringElem_eq_iff]
  exact left_inv_eq_right_inv ((mul_comm _ _).trans hg) hh

/-- Settles O29: an answer is an inverse, an operand with an inverse has an answer, inverses are unique. -/
theorem inverseIsFoundExactlyWhenOneExists : Obligations.InverseIsFoundExactlyWhenOneExists := by
  intro n p a hn hp hlt ha
  refine ⟨fun h hi => ⟨length_invModPrime hi, fun k => balanced_invModPrime hp.one_le hi,
    inverseMod_of_invModPrime hp hlt hn ha hi⟩, fun hnone ⟨h, hi⟩ => ?_, fun g h => InverseMod.modEq hn⟩
  obtain ⟨g, hg⟩ := exists_invModPrime_of_inverseMod hp hlt hn ha hi
  exact nomatch hnone.symm.trans hg

end Sys2Proof.Machine
end

section
/-! The refinement loop (R157, R158, R160): a refinement squares the error 1 - h * a, so an inverse modulo 2 is
an inverse modulo 2^k after ceil(log2 k) of them. -/

namespace Sys2Proof.Machine

open Finset

/-! ### One refinement -/

theorem getD_balmodPoly {n m k : Nat} {a : List Int} (ha : a.length = n) (hk : k < n) :
    (balmodPoly m a).getD k 0 = balmod (a.getD k 0) m := by
  subst ha
  simp [balmodPoly, List.getD_eq_getElem?_getD, hk]

/-- One refinement as R157 writes it. -/
theorem getD_refine {n k : Nat} (m : Nat) {a h : List Int} (ha : a.length = n) (hh : h.length = n) (hk : k < n) :
    (refine n m a h).getD k 0 = balmod (ringProduct n (h.getD · 0)
      (fun j => (if j = 0 then 2 else 0) - ringProduct n (h.getD · 0) (a.getD · 0) j) k) m := by
  have hfactor (j : Nat) (hj : j < n) : (List.zipWith (· - ·) (constPoly n 2) (cycConv n h a)).getD j 0 =
      (if j = 0 then 2 else 0) - ringProduct n (h.getD · 0) (a.getD · 0) j := by
    rw [getD_zipWith (· - ·) (length_constPoly ..) (length_cycConv ..) hj, getD_constPoly n 2 hj, getD_cycConv hh ha hj]
  rw [refine, getD_balmodPoly (length_cycConv ..) hk, getD_cycConv hh (by simp) hk,
    ringProduct_congr (fun _ _ => rfl) hfactor]

/-- Settles O35, coefficient by coefficient. -/
theorem refinementFormula : Obligations.RefinementFormula :=
  fun n m _ _ ha hh => ⟨length_refine n m .., fun _ => getD_refine m ha hh⟩

/-- A refinement in the ring of a divisor of its modulus. -/
theorem ringElem_refine {n d m : Nat} (hn : 1 ≤ n) (hdm : d ∣ m) {a h : List Int} (ha : a.length = n)
    (hh : h.length = n) : ringElem d n ((refine n m a h).getD · 0) =
      ringElem d n (h.getD · 0) * (2 - ringElem d n (h.getD · 0) * ringElem d n (a.getD · 0)) := by
  have hplace (k : Nat) (hk : k < n) :=
    (getD_refine m ha hh hk ▸ balmod_modEq _ m).of_dvd (Int.natCast_dvd_natCast.2 hdm)
  rw [(ringElem_eq_iff ..).2 hplace, ringElem_ringProduct, ringElem_sub, ringElem_const d hn, ringElem_ringProduct,
    Int.cast_ofNat]

/-- Newton's step: an inverse modulo d becomes one modulo every divisor of d^2 and of the modulus (R160). -/
theorem inverseMod_refine {n d d' m : Nat} (hn : 1 ≤ n) (hsq : d' ∣ d * d) (hm : d' ∣ m) {a h : List Int}
    (ha : a.length = n) (hh : h.length = n) (hi : InverseMod n d (a.getD · 0) (h.getD · 0)) :
    InverseMod n d' (a.getD · 0) ((refine n m a h).getD · 0) := by
  have herr := dvd_ringElem_sub d' hi
  rw [ringElem_ringProduct, ringElem_oneCoef d' hn] at herr
  have hzero : (ringElem d' n (a.getD · 0) * ringElem d' n (h.getD · 0) - 1) ^ 2 = 0 := by
    rw [← zero_dvd_iff, ← natCast_eq_zero_of_dvd n hsq, Nat.cast_mul, sq]
    exact mul_dvd_mul herr herr
  rw [inverseMod_iff hn, ringElem_refine hn hm ha hh]
  linear_combination -hzero

/-! ### The iterates -/

theorem length_iterate_refine {n : Nat} (m : Nat) (a : List Int) {h : List Int} (hh : h.length = n) (i : Nat) :
    ((refine n m a)^[i] h).length = n := by
  cases i with
  | zero => exact hh
  | succ i => rw [Function.iterate_succ_apply', length_refine]

/-- Every iterate of a seed balanced modulo 2 is balanced (R123, R157). -/
theorem balanced_iterate_refine {n m k : Nat} (hm : 2 ≤ m) {a h : List Int} (ha : a.length = n) (hh : h.length = n)
    (hbal : ∀ k < n, Balanced 2 (h.getD k 0)) (hk : k < n) (i : Nat) :
    Balanced m (((refine n m a)^[i] h).getD k 0) := by
  cases i with
  | zero =>
    obtain ⟨hlo, hhi⟩ := hbal k hk
    exact (⟨by omega, by omega⟩ : Balanced m (h.getD k 0))
  | succ i =>
    rw [Function.iterate_succ_apply', getD_refine m ha (length_iterate_refine m a hh i) hk]
    exact balanced_balmod _ (by omega)

/-- After i refinements the iterate is an inverse modulo 2^j for every j up to 2^i and up to k (R160). -/
theorem inverseMod_iterate_refine {n k : Nat} (hn : 1 ≤ n) {a h : List Int} (ha : a.length = n) (hh : h.length = n)
    (hi : InverseMod n 2 (a.getD · 0) (h.getD · 0)) {i j : Nat} (hji : j ≤ 2 ^ i) (hjk : j ≤ k) :
    InverseMod n (2 ^ j) (a.getD · 0) (((refine n (2 ^ k) a)^[i] h).getD · 0) := by
  induction i generalizing j with
  | zero => exact fun l hl => (hi l hl).of_dvd (mod_cast pow_dvd_pow 2 hji)
  | succ i ih =>
    rw [Function.iterate_succ_apply']
    have hhalf := ih (j := (j + 1) / 2) (by omega) (by omega)
    refine inverseMod_refine hn ?_ (pow_dvd_pow 2 hjk) ha (length_iterate_refine _ a hh i) hhalf
    rw [← pow_add]
    exact pow_dvd_pow 2 (by omega)

/-! ### The termination test and the loop -/

/-- The test of R158 compares with ONE, which is balanced modulo every m above 2. -/
theorem isInverseMod_iff {n m : Nat} (hm : 2 < m) {a h : List Int} (ha : a.length = n) (hh : h.length = n) :
    isInverseMod n m a h = true ↔ InverseMod n m (a.getD · 0) (h.getD · 0) := by
  have hone (k : Nat) : Balanced m (oneCoef k) := by
    unfold Balanced oneCoef
    split <;> omega
  have hplace (k : Nat) (hk : k < n) : (balmodPoly m (cycConv n h a)).getD k 0 =
      balmod (ringProduct n (a.getD · 0) (h.getD · 0) k) m := by
    rw [getD_balmodPoly (length_cycConv ..) hk, getD_cycConv hh ha hk, ringProduct_comm]
  rw [isInverseMod, decide_eq_true_iff]
  constructor
  · intro heq k hk
    rw [← getD_onePoly n hk, ← heq, hplace k hk]
    exact (balmod_modEq _ m).symm
  · intro hi
    refine eq_of_getD_eq (by simp) (length_onePoly n) fun k hk => ?_
    rw [hplace k hk, getD_onePoly n hk]
    exact balmod_eq_of_balanced (by omega) (hone k) (hi k hk).symm

/-- The test never passes modulo 2, where 1 is not balanced (R160). -/
theorem isInverseMod_two {n : Nat} (hn : 1 ≤ n) (a h : List Int) : isInverseMod n 2 a h = false := by
  rw [isInverseMod, decide_eq_false_iff_not]
  intro heq
  obtain ⟨-, hhi⟩ := balanced_balmod ((cycConv n h a).getD 0 0) (m := 2) (by decide)
  rw [← getD_balmodPoly (length_cycConv ..) hn, heq, getD_onePoly n hn] at hhi
  simp [oneCoef] at hhi

/-- Where the test never passes the loop runs to its cap (R158). -/
theorem newtonLoop_capped {n m : Nat} {a : List Int} (hno : ∀ h, isInverseMod n m a h = false) (left it : Nat)
    (h : List Int) : newtonLoop n m a left it h = .capped (it + left) := by
  induction left generalizing it h with
  | zero => simp [newtonLoop, hno]
  | succ left ih =>
    have hstep : newtonLoop n m a (left + 1) it h = newtonLoop n m a left (it + 1) (refine n m a h) := by
      simp [newtonLoop, hno]
    rw [hstep, ih, Nat.add_right_comm, Nat.add_assoc]

/-- The loop converges where some iterate within the cap passes the test. -/
theorem exists_newtonLoop_converged {n m i left it : Nat} {a h : List Int} (hi : i ≤ left)
    (hpass : isInverseMod n m a ((refine n m a)^[i] h) = true) :
    ∃ g j, newtonLoop n m a left it h = .converged g j := by
  induction left generalizing i it h with
  | zero =>
    obtain rfl := Nat.le_zero.1 hi
    exact ⟨h, it, by simpa [newtonLoop] using hpass⟩
  | succ left ih =>
    rw [newtonLoop]
    split
    next => exact ⟨h, it, rfl⟩
    next hfail =>
      cases i with
      | zero => exact absurd hpass hfail
      | succ i => exact ih (by omega) hpass

end Sys2Proof.Machine
end

section
/-! The claims about INVP and INV2K (R154, R158 to R160): what the algorithm and the loop answer on a source
operand, and what that leaves in the state. -/

namespace Sys2Proof.Machine

open Host.Outcome

/-! ### The source operand -/

/-- A register and the list read from it have the same inverses (R120, R152). -/
theorem inverseMod_src (s : State) (va : VReg) (m : Nat) (h : Nat → Int) :
    InverseMod s.degree m ((src s s.degree va).getD · 0) h ↔ InverseMod s.degree m (s.coef va) h := by
  simp only [InverseMod, ringProduct_congr (fun _ => getD_src_of_lt s va) fun _ _ => rfl]

section Prime

variable {s : State} {va : VReg} {p : Nat} (hN : s.legalN) (hp : p.Prime) (hlt : p < 2 ^ 32)
include hN hp hlt

/-- An invertible operand has an answer, and it is an inverse of the register (R152, R153). -/
theorem invModPrime_src_of_inverse (hinv : ∃ h, InverseMod s.degree p (s.coef va) h) :
    ∃ g, invModPrime s.degree p (src s s.degree va) = some g ∧ InverseMod s.degree p (s.coef va) (g.getD · 0) := by
  obtain ⟨h, hi⟩ := hinv
  obtain ⟨g, hg⟩ := exists_invModPrime_of_inverseMod hp hlt hN.1 (length_src ..) ((inverseMod_src s va p h).2 hi)
  exact ⟨g, hg, (inverseMod_src ..).1 (inverseMod_of_invModPrime hp hlt hN.1 (length_src ..) hg)⟩

/-- An operand without an inverse has no answer (R153). -/
theorem invModPrime_src_eq_none (hinv : ¬ ∃ h, InverseMod s.degree p (s.coef va) h) :
    invModPrime s.degree p (src s s.degree va) = none := by
  cases hg : invModPrime s.degree p (src s s.degree va) with
  | none => rfl
  | some g =>
    exact absurd ⟨_, (inverseMod_src ..).1 (inverseMod_of_invModPrime hp hlt hN.1 (length_src ..) hg)⟩ hinv

end Prime

/-! ### INVP -/

/-- INVP writes the algorithm's answer: balanced coefficients fit (R154). -/
theorem exec_invp_wroteBack {s : State} {ms : Ms} {h : List Int} (vd va : VReg) (hN : s.legalN)
    (hp : isPrime (modSel s ms) = true) (hi : invModPrime s.degree (modSel s ms) (src s s.degree va) = some h) :
    ∃ v, exec (.invp vd va ms) s = next { s with v := v, done := true, pending := .none } ∧
      WroteBack s.v v vd s.degree (h.getD · 0) := by
  have hlt := modSel_lt s ms
  have hone := ((isPrime_iff hlt).1 hp).one_le
  rw [exec_invp_some hN hp hi]
  exact commit_wroteBack s vd (length_invModPrime hi) (fun _ _ => rfl)
    fun k hk => (balanced_invModPrime hone hi hk).fits hlt

/-- Settles O31: the answer's coefficients fit. -/
theorem invpWritesTheReferenceResult : Obligations.InvpWritesTheReferenceResult :=
  fun _ vd va _ _ => exec_invp_wroteBack vd va

/-- Settles O30: an invertible operand has an answer, and INVP writes it. -/
theorem invpComputesTheInverse : Obligations.InvpComputesTheInverse := by
  intro s vd va ms hN hp hinv
  have hlt := modSel_lt s ms
  obtain ⟨g, hg, hginv⟩ := invModPrime_src_of_inverse hN hp hlt hinv
  obtain ⟨v, hexec, hv⟩ := exec_invp_wroteBack vd va hN ((isPrime_iff hlt).2 hp) hg
  exact ⟨v, _, hexec, hv, fun k => balanced_invModPrime hp.one_le hg, hginv⟩

/-- Settles O32: an operand without an inverse has no answer. -/
theorem noInverseRaisesNotInvertible : Obligations.NoInverseRaisesNotInvertible := by
  intro s w vd va ms hN hpending
  refine ⟨fun hp hinv => ?_, fun ⟨k, h1, h31, hk⟩ hinv => ?_⟩
  · have hlt := modSel_lt s ms
    rw [exec_invp_none hN ((isPrime_iff hlt).2 hp) (invModPrime_src_eq_none hN hp hlt hinv)]
    exact fail_of_pending .notInvertible hpending
  · rw [exec_inv2k_none hN (pow2Exponent_eq_some.2 ⟨hk, h1, h31⟩)
      (invModPrime_src_eq_none hN Nat.prime_two (by decide) hinv)]
    exact fail_of_pending (s := setIters 0 s) .notInvertible hpending

/-! ### INV2K -/

/-- INV2K writes the iterate on which the loop ends: it is balanced, so it fits (R158, R159). -/
theorem exec_inv2k_wroteBack {s : State} {ms : Ms} {k it : Nat} {h g : List Int} (vd va : VReg) (hN : s.legalN)
    (hk : pow2Exponent (modSel s ms) = some k) (hi : invModPrime s.degree 2 (src s s.degree va) = some h)
    (hl : newtonLoop s.degree (modSel s ms) (src s s.degree va) (iterationCap k) 0 h = .converged g it) :
    ∃ v, exec (.inv2k vd va ms) s =
        next { s with v := v, iters := BitVec.ofNat 32 it, done := true, pending := .none } ∧
      WroteBack s.v v vd s.degree (g.getD · 0) := by
  have htwo : 2 ≤ modSel s ms := by
    obtain ⟨hm, h1, -⟩ := pow2Exponent_eq_some.1 hk
    exact hm ▸ Nat.pow_le_pow_right two_pos h1
  have hlen := length_invModPrime hi
  obtain ⟨i, -, hgi, -⟩ := newtonLoop_converged hl
  have hfit (j : Nat) (hj : j < s.degree) : Fits (g.getD j 0) :=
    hgi ▸ (balanced_iterate_refine htwo (length_src ..) hlen (fun _ => balanced_invModPrime one_le_two hi) hj i).fits
      (modSel_lt s ms)
  rw [exec_inv2k_converged hN hk hi hl]
  exact commit_wroteBack (setIters it s) vd (length_newtonLoop hlen hl) (fun _ _ => rfl) hfit

/-- Settles O38: every iterate of the loop fits. -/
theorem inv2kWritesTheConvergedIterate : Obligations.Inv2kWritesTheConvergedIterate :=
  fun _ vd va _ _ _ _ _ => exec_inv2k_wroteBack vd va

/-- Settles O36: the iterate after ceil(log2 k) refinements is an inverse modulo 2^k, so the loop ends at it or
at an earlier one. -/
theorem inv2kComputesTheInverse : Obligations.Inv2kComputesTheInverse := by
  intro s vd va ms k hN hk2 hk31 hm hinv
  obtain ⟨h0, hi, hseed⟩ := invModPrime_src_of_inverse hN Nat.prime_two (by decide) hinv
  have hsrc := length_src s s.degree va
  have hlen := length_invModPrime hi
  have htwo : 2 < 2 ^ k := lt_self_pow₀ one_lt_two hk2
  have htest (i : Nat) : isInverseMod s.degree (2 ^ k) (src s s.degree va)
        ((refine s.degree (2 ^ k) (src s s.degree va))^[i] h0) = true ↔
      InverseMod s.degree (2 ^ k) (s.coef va) (((refine s.degree (2 ^ k) (src s s.degree va))^[i] h0).getD · 0) := by
    rw [← inverseMod_src]
    exact isInverseMod_iff htwo hsrc (length_iterate_refine _ _ hlen i)
  have hreach (c : Nat) (hc : k ≤ 2 ^ c) := (htest c).2 <| (inverseMod_src ..).1 <|
    inverseMod_iterate_refine hN.1 hsrc hlen ((inverseMod_src ..).2 hseed) hc le_rfl
  have hcap : ceilLog2 k ≤ iterationCap k := by unfold iterationCap; omega
  obtain ⟨g, it, hl⟩ := exists_newtonLoop_converged (it := 0) hcap (hreach _ (ceilLog2_spec (by omega)).1)
  obtain ⟨v, hexec, hv⟩ := exec_inv2k_wroteBack (ms := ms) vd va hN (pow2Exponent_eq_some.2 ⟨hm, by omega, hk31⟩) hi
    (hm ▸ hl)
  obtain ⟨i, hiti, rfl, hpass, hfail⟩ := newtonLoop_converged hl
  obtain rfl : it = i := by omega
  refine ⟨v, it, h0, hi, hexec, fun j hj hinvj => ?_, (htest it).1 hpass, fun c hc => ?_, fun j hj => ?_, hv⟩
  · exact nomatch (hfail j hj).symm.trans ((htest j).2 hinvj)
  · by_contra hlt
    exact nomatch (hfail c (by omega)).symm.trans (hreach c hc)
  · exact balanced_iterate_refine htwo.le hsrc hlen (fun _ => balanced_invModPrime one_le_two hi) hj it

/-- Settles O37: modulo 2 the test never passes. -/
theorem inv2kModTwoReachesTheCap : Obligations.Inv2kModTwoReachesTheCap := by
  intro s w vd va ms hN hpending hm hinv
  obtain ⟨h, hi, -⟩ := invModPrime_src_of_inverse hN Nat.prime_two (by decide) hinv
  have hk : pow2Exponent (modSel s ms) = some 1 := pow2Exponent_eq_some.2 ⟨hm, by decide, by decide⟩
  have hl : newtonLoop s.degree (modSel s ms) (src s s.degree va) (iterationCap 1) 0 h = .capped 4 :=
    hm ▸ newtonLoop_capped (isInverseMod_two hN.1 _) 4 0 h
  rw [exec_inv2k_capped hN hk hi hl]
  exact fail_of_pending (s := setIters 4 s) .iterCap hpending

end Sys2Proof.Machine
end

section
/-! How a command ends, by the checks of R205 in their order: one list of the ends, which the claims
about errors and about completion read off. -/

namespace Sys2Proof.Machine

/-! ### The modulus check -/

/-- INVP's modulus is illegal exactly where the model's primality check fails (R151). -/
theorem illegalModulus_invp {s : State} {vd va : VReg} {ms : Ms} :
    illegalModulus s (.invp vd va ms) ↔ isPrime (modSel s ms) = false := by
  rw [isPrime_eq_false_iff (modSel_lt s ms), Nat.prime_def_lt']
  rfl

/-- INV2K's modulus is illegal exactly where the model finds no exponent (R155). -/
theorem illegalModulus_inv2k {s : State} {vd va : VReg} {ms : Ms} :
    illegalModulus s (.inv2k vd va ms) ↔ pow2Exponent (modSel s ms) = none :=
  pow2Exponent_eq_none.symm

/-- With N legal, an illegal modulus ends the command, whatever the data (R205). -/
theorem exec_illegalModulus {i : Instr} {s : State} (hN : s.legalN) (hm : illegalModulus s i) :
    exec i s = fail .badModulus s := by
  cases i with
  | conv => exact hm.elim
  | add => exact hm.elim
  | bmod vd va ms => exact (exec_bmod hN vd va ms).trans (if_pos hm)
  | invp => exact exec_invp_badModulus hN (illegalModulus_invp.1 hm)
  | inv2k => exact exec_inv2k_badModulus hN (illegalModulus_inv2k.1 hm)
  | mov => exact hm.elim
  | ldc => exact hm.elim

/-! ### The codes of R206's rows -/

/-- An error that only the operands' data cause: in the command's row of R206, and after the checks of N and
of the modulus in the order of R205. -/
def DataError (i : Instr) (e : ErrCode) : Prop := canRaise i e ∧ e ≠ .badN ∧ e ≠ .badModulus

/-- Every row of R206 has BAD_N. -/
theorem canRaise_badN (i : Instr) : canRaise i .badN := by cases i <;> simp [canRaise]

/-- The commands that select a modulus have BAD_MODULUS in their rows. -/
theorem canRaise_badModulus {i : Instr} {s : State} (hm : illegalModulus s i) : canRaise i .badModulus := by
  cases i with
  | conv => exact hm.elim
  | add => exact hm.elim
  | bmod => exact .inr rfl
  | invp => exact .inr (.inl rfl)
  | inv2k => exact .inr (.inl rfl)
  | mov => exact hm.elim
  | ldc => exact hm.elim

/-- ILLEGAL_CMD is in no command's row: it belongs to words that are none. -/
theorem not_canRaise_illegalCmd (i : Instr) : ¬ canRaise i .illegalCmd := by cases i <;> simp [canRaise]

/-- The codes of the data errors (R204). -/
theorem DataError.code {i : Instr} {e : ErrCode} (h : DataError i e) :
    codeOf e = 4#4 ∨ codeOf e = 5#4 ∨ codeOf e = 6#4 := by
  obtain ⟨hrow, hbadN, hbadModulus⟩ := h
  cases e with
  | illegalCmd => exact absurd hrow (not_canRaise_illegalCmd i)
  | badN => exact absurd rfl hbadN
  | badModulus => exact absurd rfl hbadModulus
  | notInvertible => exact .inl rfl
  | overflow => exact .inr (.inl rfl)
  | iterCap => exact .inr (.inr rfl)

/-! ### The ends of a command -/

/-- Every state in which executing i from s can end, with the checks that led there (R205). -/
inductive CommandEnd (i : Instr) (s : State) : State → Prop where
  | badN (hN : ¬ s.legalN) : CommandEnd i s (raiseError .badN s)
  | badModulus (hN : s.legalN) (hm : illegalModulus s i) : CommandEnd i s (raiseError .badModulus s)
  | dataError {u : State} {e : ErrCode} (hN : s.legalN) (hm : ¬ illegalModulus s i) (hu : Staged i s u)
    (he : DataError i e) : CommandEnd i s (raiseError e u)
  | success {u : State} (res : List Int) (hN : s.legalN) (hm : ¬ illegalModulus s i) (hu : Staged i s u) :
    CommandEnd i s (completeOk (writeBack i.dest res u))

/-- CheckFit ends a command in OVERFLOW or lets it succeed (R122). -/
theorem commitChecked_end {i : Instr} {s : State} (res : List Int) (hN : s.legalN) (hm : ¬ illegalModulus s i)
    (hrow : canRaise i .overflow) : ∃ t, commitChecked i.dest res s = .next t ∧ CommandEnd i s t := by
  obtain ⟨-, h⟩ | ⟨-, h⟩ := commitChecked_cases i.dest res s
  · exact ⟨_, h, .success res hN hm (.inl rfl)⟩
  · exact ⟨_, h, .dataError hN hm (.inl rfl) ⟨hrow, by decide, by decide⟩⟩

/-- A command that passes both checks succeeds or ends in a data error (R205). -/
theorem exec_end_of_legal {i : Instr} {s : State} (hN : s.legalN) (hm : ¬ illegalModulus s i) :
    ∃ t, exec i s = .next t ∧ CommandEnd i s t := by
  cases i with
  | conv vd va vb => rw [exec_conv hN]; exact commitChecked_end _ hN hm (.inr rfl)
  | add vd va vb => rw [exec_add hN]; exact commitChecked_end _ hN hm (.inr rfl)
  | bmod vd va ms => exact ⟨_, (exec_bmod hN vd va ms).trans (if_neg hm), .success _ hN hm (.inl rfl)⟩
  | invp vd va ms =>
    have hp : isPrime (modSel s ms) = true := by simpa [illegalModulus_invp] using hm
    obtain hx | ⟨h, hx⟩ := exec_invp_cases hN hp vd va
    · exact ⟨_, hx, .dataError hN hm (.inl rfl) ⟨.inr (.inr rfl), by decide, by decide⟩⟩
    · exact ⟨_, hx, .success h hN hm (.inl rfl)⟩
  | inv2k vd va ms =>
    obtain ⟨k, hk⟩ := Option.ne_none_iff_exists'.1 (mt illegalModulus_inv2k.2 hm)
    obtain ⟨n, hx⟩ := exec_inv2k_cases hN hk vd va
    have hu : Staged (.inv2k vd va ms) s (setIters n s) := .inr ⟨vd, va, ms, n, rfl, rfl⟩
    obtain hx | hx | ⟨h, hx⟩ := hx
    · exact ⟨_, hx, .dataError hN hm hu ⟨.inr (.inr (.inl rfl)), by decide, by decide⟩⟩
    · exact ⟨_, hx, .dataError hN hm hu ⟨.inr (.inr (.inr rfl)), by decide, by decide⟩⟩
    · exact ⟨_, hx, .success h hN hm hu⟩
  | mov vd va => exact ⟨_, exec_mov hN vd va, .success _ hN hm (.inl rfl)⟩
  | ldc vd imm => exact ⟨_, exec_ldc hN vd imm, .success _ hN hm (.inl rfl)⟩

/-- The spec lemma of a command's end. -/
theorem exec_end (i : Instr) (s : State) : ∃ t, exec i s = .next t ∧ CommandEnd i s t := by
  by_cases hN : s.legalN
  · by_cases hm : illegalModulus s i
    · exact ⟨_, exec_illegalModulus hN hm, .badModulus hN hm⟩
    · exact exec_end_of_legal hN hm
  · exact ⟨_, exec_illegalN hN i, .badN hN⟩

theorem commandEnd_of_exec {i : Instr} {s t : State} (h : exec i s = .next t) : CommandEnd i s t := by
  obtain ⟨t', h', hend⟩ := exec_end i s
  cases h'.symm.trans h
  exact hend

/-- However a command ends, nothing is in flight (R202, R203). -/
theorem CommandEnd.pending {i : Instr} {s t : State} (h : CommandEnd i s t) : t.pending = .none := by
  cases h <;> rfl

/-- A command that ends with ERR = 1 raised an error of its row (R206); past both checks, from a state with
ITERS staged. -/
theorem CommandEnd.of_err {i : Instr} {s t : State} (h : CommandEnd i s t) (hs : s.err = false)
    (ht : t.err = true) : ∃ e u, t = raiseError e u ∧ canRaise i e ∧ Staged i s u ∧
      (u = s ∨ s.legalN ∧ ¬ illegalModulus s i) := by
  cases h with
  | badN => exact ⟨_, s, rfl, canRaise_badN i, .inl rfl, .inl rfl⟩
  | badModulus _ hm => exact ⟨_, s, rfl, canRaise_badModulus hm, .inl rfl, .inl rfl⟩
  | dataError hN hm hu he => exact ⟨_, _, rfl, he.1, hu, .inr ⟨hN, hm⟩⟩
  | success res _ _ hu =>
    obtain ⟨n, rfl, -⟩ := hu.frame
    exact nomatch hs.symm.trans ht

end Sys2Proof.Machine
end

section
/-! The claims about completion and errors (R202, R203, R205, R206), about runs (R219), and about issue and
the error halt (R200, R201, R207). -/

namespace Sys2Proof.Machine

open Host.Outcome

/-! ### Commands -/

/-- Settles O11: each end of a command leaves nothing in flight. -/
theorem everyCommandCompletes : Obligations.EveryCommandCompletes := by
  intro i s
  obtain ⟨t, hexec, hend⟩ := exec_end i s
  exact ⟨t, hexec, hend.pending⟩

/-- Settles O14: an end in an error is a whole state, and only past both checks has INV2K staged ITERS. -/
theorem errorChangesNoData : Obligations.ErrorChangesNoData := by
  intro i s t w hp hs hexec ht
  obtain ⟨e, u, rfl, -, hu, hchecks⟩ := (commandEnd_of_exec hexec).of_err hs ht
  obtain ⟨n, rfl, hn⟩ := hu.frame
  have hunstaged (h : ¬ (s.legalN ∧ ¬ illegalModulus s i)) : n = s.iters :=
    congrArg State.iters (hchecks.resolve_right h)
  refine ⟨⟨e, ?_⟩, ?_⟩
  · simp [raiseError, State.commandWord, hp]
  · rintro (hi | hm | hN)
    · exact hn.resolve_right hi
    · exact hunstaged fun h => h.2 hm
    · exact hunstaged fun h => hN h.1

/-- Settles O16: an end in an error reports a code of the command's row. -/
theorem commandsRaiseTheirOwnCodes : Obligations.CommandsRaiseTheirOwnCodes := by
  intro i s t hs hexec ht
  obtain ⟨e, u, rfl, hrow, -⟩ := (commandEnd_of_exec hexec).of_err hs ht
  exact ⟨e, hrow, rfl⟩

/-- Settles O15: the checks in their order; past them a command succeeds or ends in a data error. -/
theorem firstErrorIsReported : Obligations.FirstErrorIsReported := by
  intro s w hp hu
  let r := setInputs s.inputs.tail s
  have hstep : step s = unitStep r := step_unitTurn hu
  have hterm (i : Instr) (hd : decode w = .term i) : step s = exec i r := hstep.trans (unitStep_term hu.1 hp hd)
  have hfail (e : ErrCode) := fail_of_pending (s := r) e hp
  refine ⟨fun why hd => ?_, fun i hd hN => ?_, fun i hd hN hm => ?_, fun i hd hN hm he => ?_⟩
  · exact hstep.trans ((unitStep_illegal (s := r) hu.1 hp hd).trans (hfail .illegalCmd))
  · exact (hterm i hd).trans ((exec_illegalN (s := r) hN i).trans (hfail .badN))
  · exact (hterm i hd).trans ((exec_illegalModulus (s := r) hN hm).trans (hfail .badModulus))
  · obtain ⟨t, hexec, hend⟩ := exec_end i r
    refine ⟨t, (hterm i hd).trans hexec, ?_⟩
    cases hend with
    | badN hN' => exact absurd hN hN'
    | badModulus _ hm' => exact absurd hm' hm
    | dataError _ _ _ hdata => exact .inr hdata.code
    | success _ _ _ hst =>
      obtain ⟨n, rfl, -⟩ := hst.frame
      exact .inl he

/-! ### Runs -/

/-- The Unit's step answers a next state (R219). -/
theorem unitStep_next (s : State) : ∃ t, unitStep s = next t := by
  obtain h | ⟨-, -, h⟩ | ⟨-, w, -, ⟨i, -, h⟩ | ⟨why, -, h⟩⟩ := unitStep_cases s
  · exact ⟨_, h⟩
  · exact ⟨_, h⟩
  · obtain ⟨t, hexec, -⟩ := exec_end i s
    exact ⟨t, h.trans hexec⟩
  · exact ⟨_, h⟩

/-- Every step answers a next state (R219). -/
theorem step_next (s : State) : ∃ t, step s = next t := by
  cases hin : s.inputs with
  | nil => rw [step_empty hin]; exact unitStep_next s
  | cons input rest =>
    cases input with
    | host t => exact ⟨_, step_host hin⟩
    | unit => rw [step_unit hin]; exact unitStep_next _
    | rstN level => exact ⟨_, step_rstN hin⟩

/-- Settles O12, by induction on the number of steps. -/
theorem everyRunIsSafe : Obligations.EveryRunIsSafe := by
  intro k
  induction k with
  | zero => exact fun s => ⟨s, rfl⟩
  | succ k ih =>
    intro s
    obtain ⟨t, hstep⟩ := step_next s
    obtain ⟨u, hrun⟩ := ih t
    exact ⟨u, (run_succ k hstep).trans hrun⟩

/-! ### The interrupt line -/

/-- The interrupt reads no more than the control registers (R208). -/
theorem irq_congr {s t : State} (h : t.control = s.control) : t.irq = s.irq := by
  simp only [State.control, Prod.mk.injEq] at h
  simp only [State.irq, h]

/-- After the reset step DONE and ERR are 0 (R42). -/
theorem irq_resetStep (s : State) : (resetStep s).irq = false := rfl

/-- An accepted command clears DONE (R200). -/
theorem irq_acceptCmd {s : State} (w : Word) (he : s.err = false) : (acceptCmd w s).irq = false := by
  simp [State.irq, he]

/-- A write to STATUS only clears (R29). -/
theorem irq_writeStatus {s : State} (x : Word) (h : s.irq = false) : (writeStatus x s).irq = false := by
  simp only [State.irq, Bool.or_eq_false_iff, Bool.and_eq_false_iff] at h ⊢
  simp only [writeStatus_ieDone, writeStatus_done, writeStatus_ieErr, writeStatus_err, Bool.and_eq_false_iff]
  exact ⟨h.1.imp_right .inl, h.2.imp_right .inl⟩

/-- A step that raises the interrupt is a completion or a write to the enables (R208). -/
theorem irq_rises {s t : State} (hstep : step s = next t) (hs : s.irq = false) (ht : t.irq = true) :
    s.completionTurn ∨ ∃ x, s.hostWrites 0x028#20 x ∧ x.getLsbD 31 = false := by
  by_cases hreset : s.resetTurn
  · obtain ⟨level, b, hreset_step, -⟩ := step_resetTurn hreset
    cases hreset_step.symm.trans hstep
    exact nomatch (irq_resetStep s).symm.trans ht
  obtain ⟨u, level, rest, b, harch, rfl⟩ := step_arch hstep
  have hlow {r : State} (hc : u.control = r.control) (hr : r.irq = false) : False :=
    nomatch hr.symm.trans ((irq_congr hc).symm.trans ht)
  obtain h | hr | ⟨w, -, -, he, h⟩ | ⟨x, -, h⟩ | ⟨x, -, -, hx, -⟩ | ⟨w, -, hu, hp, -⟩ := harch.control_eq
  · exact (hlow h hs).elim
  · exact absurd hr hreset
  · exact (hlow h (irq_acceptCmd w he)).elim
  · exact (hlow h (irq_writeStatus x hs)).elim
  · refine .inr ⟨x, hx, ?_⟩
    by_contra hbit
    exact hreset (.inl ⟨x, hx, by simpa using hbit⟩)
  · exact .inl ⟨hu, w, hp⟩

/-- Settles O50: the line is the level by definition, and what raises it is read off the effects of a step. -/
theorem interruptLine : Obligations.InterruptLine :=
  ⟨fun _ => ⟨rfl, rfl⟩, fun _ _ => irq_rises⟩

/-! ### Issue -/

/-- The accepted CMD write as a whole state (R200). -/
theorem step_cmdWrite_accepted {s : State} {w : Word} {rest : List Input} (hr : s.rstN = true)
    (hin : s.inputs = .host (.write 0x020#20 w) :: rest) (hp : s.pending = .none) (he : s.err = false) :
    step s = next { s with
      inputs := rest, bus := some (.write false), cmdLast := w, done := false, pending := .cmd w } := by
  rw [step_blockWrite .cmd hr hin, blockWrite, issueCmd_accepted (s := setInputs rest s) w hp he]
  rfl

/-- Settles O7: STATUS.BUSY reads what is now in flight. -/
theorem idleCmdWriteIsAccepted : Obligations.IdleCmdWriteIsAccepted :=
  fun _ _ _ hr hin hp he => ⟨_, step_cmdWrite_accepted hr hin hp he, rfl, getLsbD_statusWord_low _ 0⟩

/-- Settles O8, from the write rule of CMD. -/
theorem busyOrErrCmdWriteIsRejected : Obligations.BusyOrErrCmdWriteIsRejected := by
  intro s w rest hr hin h
  rw [step_blockWrite .cmd hr hin, blockWrite,
    issueCmd_rejected (s := setInputs rest s) w (h.imp_left busy_eq_true.2)]
  rfl

/-- Settles O9: the step is the Unit's, which executes the word it decodes. -/
theorem stepRunsTheDecodedCommand : Obligations.StepRunsTheDecodedCommand :=
  fun s _ _ hr hp hd => ⟨fun hin => (step_empty hin).trans (unitStep_term hr hp hd),
    fun rest hin => (step_unit hin).trans (unitStep_term (s := setInputs rest s) hr hp hd)⟩

/-- The word that `withFetchWord` places is in flight, whole (log entry 6). -/
theorem pending_withFetchWord (s : State) (w : Word) : (s.withFetchWord 32 w.toNat).pending = .cmd w := by
  show Pending.cmd (BitVec.ofNat 32 (w.toNat % 2 ^ 32)) = _
  rw [Nat.mod_eq_of_lt w.isLt, BitVec.ofNat_toNat, BitVec.setWidth_eq]

/-- Settles O10: the word placed is the command's encoding, which decodes to the command. -/
theorem fetchWordRunsTheCommand : Obligations.FetchWordRunsTheCommand :=
  fun s _ hi => (stepRunsTheDecodedCommand _ _ _ rfl (pending_withFetchWord s _) (decode_encode hi)).2 s.inputs rfl

/-! ### The error halt -/

/-- Settles O44: a rejection, an acknowledgement that names ERR alone, and an acceptance, one step each. -/
theorem errorHaltsUntilAcknowledged : Obligations.ErrorHaltsUntilAcknowledged := by
  intro s w1 w2 x rest hr hp he h2 h1 h3 h5 hin
  have hreject := busyOrErrCmdWriteIsRejected s w1 _ hr hin (.inr he)
  refine (run_succ 2 hreject).trans ((run_succ 1 ((statusAndCtrlWrites _ x _ (by exact hr)).1 rfl)).trans ?_)
  simp only [h1, h2, h3, h5, Bool.false_eq_true, if_true, if_false]
  exact run_succ 0 (step_cmdWrite_accepted hr rfl hp rfl)

end Sys2Proof.Machine
end

section
/-! The claims about reset and INIT (R240, R242). While INIT is in flight the PRAU is busy, so what the Host's
accesses do then is what the claims about the bus and about issue say of a busy PRAU. -/

namespace Sys2Proof.Machine

open Host.Outcome

/-! ### Held in reset -/

/-- The return of rst_n is a reset, with rst_n = 1 after it (R240). -/
theorem step_release {s : State} {rest : List Input} (hr : s.rstN = false) (hin : s.inputs = .rstN true :: rest) :
    ∃ t, step s = next t ∧ t.rstN = true ∧ t.pending = .init := by
  have hreset : s.resetTurn := .inr ⟨true, rest, hin, by simp [hr]⟩
  obtain ⟨level, b, hstep, -, -, hhigh⟩ := step_resetTurn hreset
  exact ⟨_, hstep, (hhigh rest hin).2, pending_resetTurn hreset hstep⟩

/-- Settles O52, input by input: neither agent acts while rst_n = 0, and its return is a reset. -/
theorem heldInReset : Obligations.HeldInReset := by
  refine fun s rest hr => ⟨fun t hin => ?_, fun hin => ?_, fun hin => ?_, step_release hr⟩
  · rw [step_host hin, hostStep_held t (by simpa using hr)]
    rfl
  · exact (step_unit hin).trans (unitStep_held (s := setInputs rest s) hr)
  · exact (step_empty hin).trans (unitStep_held hr)

/-! ### The end of INIT -/

/-- The Unit's turn while INIT is in flight ends INIT (R242). -/
theorem step_initDone {s : State} (hu : s.unitTurn) (hp : s.pending = .init) :
    step s = next (initDone (setInputs s.inputs.tail s)) :=
  (step_unitTurn hu).trans (unitStep_init (s := setInputs s.inputs.tail s) hu.1 hp)

/-- What the host finds after the INIT of a part right after reset (R42, R242). -/
theorem step_resetWith_init (p : Params) {is : List Input} (his : is = [] ∨ ∃ rest, is = .unit :: rest) :
    ∃ t, step { State.resetWith p with inputs := is } = next t ∧ statusWord t = 0x00000010#32 ∧
      t.irq = false ∧ ∀ r k, t.slot r k = 0#64 :=
  ⟨_, step_initDone ⟨rfl, his⟩ rfl, (statusWord_of_reset true is.tail none (State.resetWith p)).2, rfl,
    slot_resetStep (State.resetWith p)⟩

/-! ### The Host's accesses while something is in flight -/

/-- Only the Unit's turn ends what is in flight (R30). -/
theorem pending_ne_none_of_not_unitTurn {s t : State} (hp : s.pending ≠ .none) (hu : ¬ s.unitTurn)
    (h : step s = next t) : t.pending ≠ .none := by
  obtain ⟨-, -, -, -, hfalls, -⟩ := busyTransitions s t h
  exact fun ht => hu (hfalls (busy_eq_true.2 hp) (busy_eq_false.2 ht))

theorem State.hostWrites.not_unitTurn {s : State} {a : BusAddr} {x : Word} (h : s.hostWrites a x) :
    ¬ s.unitTurn := by
  obtain ⟨-, rest, hin⟩ := h
  simp [State.unitTurn, hin]

section Busy

variable {s t : State} {a : BusAddr} {x : Word} (hp : s.pending ≠ .none) (hstep : step s = next t)
include hp hstep

/-- A CMD write is rejected (R201). -/
theorem cmdWrite_busy (hw : s.hostWrites 0x020#20 x) : t.cmdrej = true ∧ t.cmdLast = s.cmdLast := by
  obtain ⟨hr, rest, hin⟩ := hw
  cases (busyOrErrCmdWriteIsRejected s x rest hr hin (.inl hp)).symm.trans hstep
  exact ⟨rfl, rfl⟩

/-- A CFG write is dropped (R70). -/
theorem cfgWrite_busy (hw : s.hostWrites a x) (ha : a = 0x010#20 ∨ a = 0x014#20 ∨ a = 0x018#20 ∨ a = 0x01C#20) :
    t.accerr = true ∧ t.cfgN = s.cfgN ∧ t.cfgP = s.cfgP ∧ t.cfgQ = s.cfgQ ∧ t.cfgM = s.cfgM := by
  obtain ⟨hr, rest, hin⟩ := hw
  obtain ⟨-, -, -, -, hdropped, -⟩ := cfgAndReadOnlyWrites s a x rest hr hin
  cases (hdropped hp ha).symm.trans hstep
  exact ⟨rfl, rfl, rfl, rfl, rfl⟩

variable {r : VReg} {i : Nat} {half : Half} (hd : decodeAddr a = .slot r i half) (hi : i < s.params.nmax)
include hd hi

/-- A window write is dropped (R70). -/
theorem slotWrite_busy (hw : s.hostWrites a x) : t.accerr = true ∧ t.v = s.v := by
  obtain ⟨hr, rest, hin⟩ := hw
  obtain ⟨-, hdropped, -⟩ := coefficientWrites s a x r i half rest hr hin hd
  cases (hdropped hi hp).symm.trans hstep
  exact ⟨rfl, rfl⟩

/-- A window read is dropped and answers 0 (R70). -/
theorem slotRead_busy (hread : s.hostReads a) : t.accerr = true ∧ t.bus = some (.read 0#32 false) := by
  obtain ⟨hr, rest, hin⟩ := hread
  obtain ⟨-, hdropped, -⟩ := coefficientReads s a r i half rest hr hin hd
  cases (hdropped hi hp).symm.trans hstep
  exact ⟨rfl, rfl⟩

end Busy

/-- Settles O53: the end of INIT by the Unit's step, the Host's accesses during it as on any busy PRAU. -/
theorem initCompletion : Obligations.InitCompletion := by
  have hbusy {s : State} (hinit : s.pending = .init) : s.pending ≠ .none := by simp [hinit]
  refine ⟨fun _ => step_initDone, fun p _ => step_resetWith_init p, fun s a x hinit hw => ?_, fun s a hinit hread => ?_⟩
  · obtain ⟨t, hstep⟩ := step_next s
    have hp := hbusy hinit
    exact ⟨t, hstep, pending_ne_none_of_not_unitTurn hp hw.not_unitTurn hstep,
      fun ha => cmdWrite_busy hp hstep (ha ▸ hw), cfgWrite_busy hp hstep hw,
      fun _ _ _ hd hi => slotWrite_busy hp hstep hd hi hw⟩
  · obtain ⟨t, hstep⟩ := step_next s
    exact ⟨t, hstep, fun _ _ _ hd hi => slotRead_busy (hbusy hinit) hstep hd hi hread⟩

end Sys2Proof.Machine
end
